-- ==== Sys2Proof/Word.lean ====
section
/-!
DEFINITION. The word types of the CHIP-8 engine and their zero extensions.
spec/00_scope.md section 5 (notation), 30_encoding.md R43 (field widths), 41_alu.md R65 (everything is unsigned).
-/

namespace Sys2Proof

/-- One byte of memory, a general register, a timer, an immediate `kk`. -/
abbrev Byte := BitVec 8

/-- PC, I, a stack entry, an instruction word. -/
abbrev Word := BitVec 16

/-- The 12-bit address immediate `nnn`. -/
abbrev Addr12 := BitVec 12

/-- A 4-bit field of an instruction word. -/
abbrev Nibble := BitVec 4

/-- The index of a general register V0..VF; every value is legal (10_state.md R12). -/
abbrev Reg := Fin 16

/-- The code of a key, 0x0..0xF (60_exceptions.md R120). -/
abbrev KeyCode := Fin 16

/-- An index into the call stack, 0..15 (10_state.md R17). -/
abbrev StackIndex := Fin 16

/-- VF, the flag register (10_state.md R13). -/
abbrev regVF : Reg := 15

/-- V0, the offset register of Bnnn (40_control.md R63). -/
abbrev regV0 : Reg := 0

/-- `zext_16` of an 8-bit value. -/
def Byte.toWord (b : Byte) : Word := b.zeroExtend 16

/-- `zext_16` of a 12-bit address. -/
def Addr12.toWord (a : Addr12) : Word := a.zeroExtend 16

/-- A register index from its 4-bit field. -/
def Nibble.toReg (n : Nibble) : Reg := ⟨n.toNat, n.isLt⟩

/-- The 4-bit field of a register index. -/
def regNibble (r : Reg) : Nibble := BitVec.ofNat 4 r.val

end Sys2Proof
end

