-- ==== Sys2Proof/Machine/Parameters.lean ====
section
/-!
DEFINITION. The parameters that 00_scope.md R8 leaves to the implementer and gives a value for this hardware.
They stand here, and not in Config, so that a test against hardware may mend a value.
-/

namespace Sys2Proof.Machine

def fontGlyphs0To7 : List Byte :=
  [0xF0, 0x90, 0x90, 0x90, 0xF0, 0x20, 0x60, 0x20, 0x20, 0x70, 0xF0, 0x10, 0xF0, 0x80, 0xF0, 0xF0, 0x10, 0xF0, 0x10, 0xF0,
   0x90, 0x90, 0xF0, 0x10, 0x10, 0xF0, 0x80, 0xF0, 0x10, 0xF0, 0xF0, 0x80, 0xF0, 0x90, 0xF0, 0xF0, 0x10, 0x20, 0x40, 0x40]

def fontGlyphs8ToF : List Byte :=
  [0xF0, 0x90, 0xF0, 0x90, 0xF0, 0xF0, 0x90, 0xF0, 0x10, 0xF0, 0xF0, 0x90, 0xF0, 0x90, 0x90, 0xE0, 0x90, 0xE0, 0x90, 0xE0,
   0xF0, 0x80, 0x80, 0x80, 0xF0, 0xE0, 0x90, 0x90, 0x90, 0xE0, 0xF0, 0x80, 0xF0, 0x80, 0xF0, 0xF0, 0x80, 0xF0, 0x80, 0x80]

/-- `FONT`, 16 glyphs of 5 bytes: the spec's default table (10_state.md R25, 92_eei_decisions.md D18). PRESUMED: the
spec itself marks the bytes as general knowledge (log 4, unsafe). -/
def font : List Byte := fontGlyphs0To7 ++ fontGlyphs8ToF

/-- `SHL_VF_RAW`, true for this hardware (41_alu.md R77, 92_eei_decisions.md D6). DESIGN CHOICE, the spec's own
(log 5, unsafe). -/
def shlVfRaw : Bool := true

/-- `KEY_TIEBREAK`: the largest code of a set of key codes, none for the empty set (60_exceptions.md R117,
92_eei_decisions.md D14). DESIGN CHOICE, the spec's own (log 6, unsafe). -/
def keyTiebreak (edges : List KeyCode) : Option KeyCode :=
  edges.foldl (fun best k => match best with | none => some k | some b => some (if b < k then k else b)) none

end Sys2Proof.Machine
end

