-- ==== Sys2Proof/Config.lean ====
section
/-!
DEFINITION. The constants that 00_scope.md R8 fixes for the block, the events that the environment issues, and the two
free values of the model.
The parameters R8 leaves to the implementer and gives a value (FONT, SHL_VF_RAW, KEY_TIEBREAK) stand in
Machine/Parameters.lean.
-/

namespace Sys2Proof

/-- Memory size in bytes (00_scope.md R8, 20_memory.md R28). -/
abbrev Config.memBytes : Nat := 4096

/-- Program origin and the value of PC after Reset (00_scope.md R8). -/
abbrev Config.programOrigin : Nat := 0x200

/-- Bytes of the program area 0x200..0xFFF: the longest rom that Reset takes (70_reset_and_hazards.md R126). -/
abbrev Config.romMax : Nat := 3584

/-- Bytes of the font area 0x000..0x04F (10_state.md R25). -/
abbrev Config.fontBytes : Nat := 80

/-- The random byte of the k-th executed Cxkk when the environment drives none: a free value, any byte, no
correlation between draws (00_scope.md R9, 92_eei_decisions.md D13; DESIGN CHOICE, log 2, safe). It has no body on
purpose. -/
opaque Config.freeRnd : Nat → Byte

/-- The events through which alone the state changes (00_scope.md R5), and the batched tick (60_exceptions.md R113). -/
inductive Machine.Event where
  /-- The program load: build the initial state. -/
  | reset (rom : List Byte)
  /-- Execute one instruction, with the random byte of this Step. -/
  | step (rnd : Byte)
  /-- One 60 Hz tick. -/
  | tick
  /-- k ticks with nothing in between. -/
  | tickBatch (k : Nat)
  /-- The current levels of the 16 keys. -/
  | keySample (new : Vector Bool 16)
  /-- Read the display; changes nothing. -/
  | readout
  deriving DecidableEq, Repr, Inhabited

/-- The k-th event of the environment's infinite interleaving: a free value, any sequence of events (00_scope.md R6,
92_eei_decisions.md D2; DESIGN CHOICE, log 1, safe). It has no body on purpose. -/
opaque Config.freeEvent : Nat → Machine.Event

end Sys2Proof
end

