-- ==== Sys2Proof/Machine/State.lean ====
section
/-!
DEFINITION. The state of the block (10_state.md R11, the exact record), the environment's inputs that the model
holds beside it, the reasons a step stops, and the state after reset (10_state.md R26).
-/

namespace Sys2Proof.Machine

/-- Memory as (address, byte) pairs in the canonical form `Memory.wf` (Machine/Memory.lean): addresses strictly
rising, none listed with the byte an unlisted address reads as. -/
abbrev Memory := List Host.Cell

/-- `PIX[row][col]`, row 0..31, column 0..63 (10_state.md R23). -/
abbrev Display := Vector (Vector Bool 64) 32

/-- `WAIT`, the wait latch (10_state.md R21). `target` means something only while `active`; DEDUCED: it keeps its
value after that (log 9, unsafe). -/
structure Wait where
  active : Bool
  target : Reg
  deriving DecidableEq, Repr

/-- `FAULT`, the 2-bit fault latch: its four values by name (10_state.md R22; codes in FaultLatch.code). -/
inductive FaultLatch where
  | none
  | stackUnderflow
  | stackOverflow
  | keyIndexOutOfRange
  deriving DecidableEq, Repr

/-- What the environment issues once its agenda is empty (00_scope.md R6; DESIGN CHOICE, log 1, safe). -/
inductive Environment where
  /-- A Step, each time, with the byte that the port holds. -/
  | steps
  /-- The k-th and later events of an infinite interleaving. -/
  | free (k : Nat)
  deriving DecidableEq, Repr

/-- The whole state. The first fields are the spec's record, one for one; the last four are the model's own and
hold what the environment supplies (DESIGN CHOICE, log 1 and log 2, safe). -/
structure State where
  /-- `V[0..15]` (R12). -/
  v : Vector Byte 16
  /-- `I` (R14). -/
  i : Word
  /-- `PC` (R15). -/
  pc : Word
  /-- `SP` (R16): none is -1 (empty), some j the index of the top entry (DESIGN CHOICE, log 8, safe). -/
  sp : Option StackIndex
  /-- `Stack[0..15]` (R17). -/
  stack : Vector Word 16
  /-- `DT` (R18). -/
  dt : Byte
  /-- `ST` (R19). -/
  st : Byte
  /-- `KEYS[0..15]` (R20). -/
  keys : Vector Bool 16
  /-- `WAIT` (R21). -/
  wait : Wait
  /-- `FAULT` (R22). -/
  fault : FaultLatch
  /-- `PIX` (R23). -/
  pix : Display
  /-- `MEM` (R24). -/
  mem : Memory
  /-- What the environment issues next, oldest first. -/
  agenda : List Event
  /-- What the environment issues when the agenda is empty. -/
  env : Environment
  /-- The byte the environment drives on `rnd`; none when it drives none, and a Cxkk then samples a free byte. -/
  rndPort : Option Byte
  /-- How many random bytes have been sampled. -/
  draws : Nat
  deriving DecidableEq, Repr

/-- No step of this machine stops with a fault, so there is no constructor: each of the spec's faults has an entry
that the spec describes (60_exceptions.md R107), which is a next state with the latch set (DEDUCED, log 11, safe). -/
inductive Fault where
  deriving DecidableEq, Repr

/-- Why a step refuses. -/
inductive Refusal where
  /-- An instruction without a meaning. Raised only by a rejected arm of exec, and exec has none. Safe. -/
  | notModelled (mnemonic : String)
  /-- The Reset event with a rom longer than 3584 bytes, which the spec refuses (70_reset_and_hazards.md R126).
  Raised by the Reset event only, never by an instruction. Safe. -/
  | romTooLong (length : Nat)
  deriving DecidableEq, Repr

/-- What a meaning, an event or a step answers. -/
abbrev Result := Host.Outcome State Fault Refusal

/-- The state right after Reset with an empty rom, every field as 10_state.md R26 gives it: memory lists nothing,
so it reads as the font, then zero (Memory.unlisted). All but pc and sp is a DESIGN CHOICE of the spec (log 7, unsafe);
the last four fields are the model's own (log 1, log 2). -/
def State.reset : State where
  v := Vector.replicate 16 0
  i := 0
  pc := 0x200
  sp := Option.none
  stack := Vector.replicate 16 0
  dt := 0
  st := 0
  keys := Vector.replicate 16 false
  wait := { active := false, target := 0 }
  fault := .none
  pix := Vector.replicate 32 (Vector.replicate 64 false)
  mem := []
  agenda := []
  env := .steps
  rndPort := Option.none
  draws := 0

end Sys2Proof.Machine
end

