-- ==== Sys2Proof/Machine/Memory.lean ====
section
/-!
DEFINITION. The memory: what an unlisted address reads as, the canonical form, reading and writing one byte.
20_memory.md R28, R29, R33; 10_state.md R24, R26.
-/

namespace Sys2Proof.Machine

/-- Every memory address is reduced to 12 bits before use (20_memory.md R29: `addr & 0xFFF`). -/
def maskAddr (addr : Nat) : Nat := addr % 4096

/-- What an address that memory does not list reads as: its content after Reset with an empty rom, the font at
0x000..0x04F and 0 elsewhere (10_state.md R26). The font bytes are PRESUMED (log 4, unsafe), the zeros a DESIGN CHOICE
of the spec (log 7, unsafe). -/
def Memory.unlisted (a : Nat) : Byte := font.getD a 0

/-- The canonical form: addresses strictly rising and inside the space, no entry equal to what an unlisted address
reads as. -/
abbrev Memory.wf (m : Memory) : Prop :=
  m.Pairwise (fun c d => c.1 < d.1) ∧ ∀ c ∈ m, c.1 < 4096 ∧ c.2 ≠ Memory.unlisted c.1

/-- The byte at an address inside the space. -/
def Memory.read : Memory → Nat → Byte
  | [], a => Memory.unlisted a
  | (k, b) :: rest, a => if k = a then b else Memory.read rest a

/-- Put a cell before the first cell with a greater address. -/
def Memory.insert (cell : Host.Cell) : Memory → Memory
  | [] => [cell]
  | c :: rest => if cell.1 < c.1 then cell :: c :: rest else c :: Memory.insert cell rest

/-- Store a byte at an address inside the space: the old entry goes, and a new one is listed unless the byte is what
an unlisted address reads as. -/
def Memory.write (m : Memory) (a : Nat) (b : Byte) : Memory :=
  let others := m.filter (fun c => c.1 != a)
  if b = Memory.unlisted a then others else Memory.insert (a, b) others

/-- `MemRead(addr, 1)` (20_memory.md R29). -/
def Memory.readByte (m : Memory) (addr : Nat) : Byte := Memory.read m (maskAddr addr)

/-- `MemWrite(addr, 1, v)` (20_memory.md R29). -/
def Memory.writeByte (m : Memory) (addr : Nat) (b : Byte) : Memory := Memory.write m (maskAddr addr) b

/-- A sequence of single-byte writes at ascending addresses, each masked on its own (20_memory.md R30, R32). -/
def Memory.storeBytes (m : Memory) (addr : Nat) : List Byte → Memory
  | [] => m
  | b :: bs => Memory.storeBytes (Memory.writeByte m addr b) (addr + 1) bs

end Sys2Proof.Machine
end

