-- ==== Sys2Proof/Machine/Ops.lean ====
section
/-!
DEFINITION. The named operations over registers, latches and memory that every meaning is made of, and fault entry,
the one exception mechanism (60_exceptions.md R107).
-/

namespace Sys2Proof.Machine

/-! Registers: every read and write of a piece of state goes through these. -/

/-- `V[r]` (10_state.md R12). -/
def State.getV (s : State) (r : Reg) : Byte := s.v[r]

/-- `V[r] <- b`. -/
def State.setV (s : State) (r : Reg) (b : Byte) : State := { s with v := s.v.set r b }

/-- `I <- w` (10_state.md R14). -/
def State.setI (s : State) (w : Word) : State := { s with i := w }

/-- `PC <- w` (10_state.md R15). -/
def State.setPc (s : State) (w : Word) : State := { s with pc := w }

/-- `SP <- p` (10_state.md R16). -/
def State.setSp (s : State) (p : Option StackIndex) : State := { s with sp := p }

/-- `Stack[j]` (10_state.md R17). -/
def State.getStack (s : State) (j : StackIndex) : Word := s.stack[j]

/-- `Stack[j] <- w`. -/
def State.setStack (s : State) (j : StackIndex) (w : Word) : State := { s with stack := s.stack.set j w }

/-- `DT <- b` (10_state.md R18). -/
def State.setDt (s : State) (b : Byte) : State := { s with dt := b }

/-- `ST <- b` (10_state.md R19). -/
def State.setSt (s : State) (b : Byte) : State := { s with st := b }

/-- `KEYS[k]` (10_state.md R20). -/
def State.getKey (s : State) (k : KeyCode) : Bool := s.keys[k]

/-- `KEYS <- new`. -/
def State.setKeys (s : State) (new : Vector Bool 16) : State := { s with keys := new }

/-- `WAIT <- w` (10_state.md R21). -/
def State.setWait (s : State) (w : Wait) : State := { s with wait := w }

/-- `FAULT <- c` (10_state.md R22). -/
def State.setFault (s : State) (c : FaultLatch) : State := { s with fault := c }

/-- `PIX <- p` (10_state.md R23). -/
def State.setPix (s : State) (p : Display) : State := { s with pix := p }

/-- The whole of `MEM`. -/
def State.setMem (s : State) (m : Memory) : State := { s with mem := m }

/-- What the environment issues next (log 1). -/
def State.setAgenda (s : State) (es : List Event) : State := { s with agenda := es }

/-- What the environment issues when the agenda is empty (log 1). -/
def State.setEnv (s : State) (m : Environment) : State := { s with env := m }

/-- What the environment drives on `rnd` (log 2). -/
def State.setRndPort (s : State) (b : Option Byte) : State := { s with rndPort := b }

/-- The count of random bytes sampled (log 2). -/
def State.setDraws (s : State) (n : Nat) : State := { s with draws := n }

/-! Memory (20_memory.md R29). -/

/-- `MemRead(addr, 1)`. -/
def State.memRead (s : State) (addr : Nat) : Byte := s.mem.readByte addr

/-- `MemWrite` of a run of bytes at ascending addresses, each masked. -/
def State.memStore (s : State) (addr : Nat) (bs : List Byte) : State := s.setMem (s.mem.storeBytes addr bs)

/-! The stack pointer (10_state.md R16; log 8). -/

/-- SP as the spec's integer, -1..15. -/
def spValue : Option StackIndex → Int
  | Option.none => -1
  | some j => (j.val : Int)

/-- The entry the next push takes, SP + 1; none when SP = 15, so when the stack is full. -/
def pushSlot : Option StackIndex → Option StackIndex
  | Option.none => some 0
  | some j => if h : j.val + 1 < 16 then some ⟨j.val + 1, h⟩ else Option.none

/-- SP - 1 for SP = j. -/
def popSlot (j : StackIndex) : Option StackIndex :=
  if j.val = 0 then Option.none else some ⟨j.val - 1, by omega⟩

/-! Taking a fault. -/

/-- The 2-bit code of the latch (10_state.md R22). -/
def FaultLatch.code : FaultLatch → BitVec 2
  | .none => 0
  | .stackUnderflow => 1
  | .stackOverflow => 2
  | .keyIndexOutOfRange => 3

/-- `raise`: fault entry (60_exceptions.md R107). The fetch has already put A + 2 into PC; the latch takes the code
and nothing else changes: no state is saved, there is no mode and no handler. No instruction returns from a fault
(R109); only the Reset event clears the latch (State.boot in Machine/Events.lean). -/
def raise (c : FaultLatch) (s : State) : State := s.setFault c

/-! Random bytes (00_scope.md R9; log 2). -/

/-- The byte this Step samples: the one the environment drives, else a free byte. -/
def State.rndByte (s : State) : Byte := s.rndPort.getD (Config.freeRnd s.draws)

/-- The sample has been taken: the next free byte is another one. -/
def State.sampled (s : State) : State := s.setDraws (s.draws + 1)

end Sys2Proof.Machine
end

