-- ==== Sys2Proof/Machine/Flags.lean ====
section
/-!
DEFINITION. The values that are written to VF as a flag (10_state.md R13), and the order of the flag write and the
result write (41_alu.md R66).
-/

namespace Sys2Proof.Machine

/-- 1 or 0. -/
def flagByte (b : Bool) : Byte := if b then 1 else 0

/-- 8xy4: carry out of bit 7 (41_alu.md R73). -/
def carryFlag (a b : Byte) : Byte := flagByte (decide (a.toNat + b.toNat > 255))

/-- 8xy5 and 8xy7: NOT borrow of minuend - subtrahend, 1 when they are equal (41_alu.md R65, R74, R76). -/
def notBorrowFlag (minuend subtrahend : Byte) : Byte := flagByte (decide (minuend.toNat ≥ subtrahend.toNat))

/-- 8xy6: the bit shifted out, bit 0 (41_alu.md R75). -/
def shrFlag (a : Byte) : Byte := a &&& 1

/-- 8xyE: bit 7, raw as 0x80 or as 1 or 0 (41_alu.md R77). -/
def shlFlag (raw : Bool) (a : Byte) : Byte := if raw then a &&& 0x80 else flagByte a.msb

/-- Dxyn: some lit pixel was turned off (43_display.md R89). -/
def collisionFlag (hit : Bool) : Byte := flagByte hit

/-- Fx1E: the 12-bit address overflowed (42_index_memory.md R81). -/
def indexOverflowFlag (sum : Nat) : Byte := flagByte (decide (sum > 0xFFF))

/-- Write VF, then V[x]: with x = F the result wins (41_alu.md R66). -/
def flagThenResult (x : Reg) (flag result : Byte) (s : State) : State := (s.setV regVF flag).setV x result

/-- The shifts: write VF, then shift V[x] as it stands after that write (41_alu.md R66). -/
def flagThenUpdate (x : Reg) (flag : Byte) (f : Byte → Byte) (s : State) : State :=
  let t := s.setV regVF flag
  t.setV x (f (t.getV x))

end Sys2Proof.Machine
end

