-- ==== Sys2Proof/Machine/Operands.lean ====
section
/-!
DEFINITION. Operand forms: targets of jumps, skips, the bytes at I (42_index_memory.md R86), glyph addresses, decimal
digits, the register group V0..Vx.
-/

namespace Sys2Proof.Machine

/-- A jump target or I from the 12-bit immediate: zero-extended (30_encoding.md R45). -/
def immAddress (nnn : Addr12) : Word := Addr12.toWord nnn

/-- The target of Bnnn: nnn + V[0] in 16 bits, not masked (40_control.md R63). -/
def indexedTarget (nnn : Addr12) (s : State) : Word := Addr12.toWord nnn + Byte.toWord (s.getV regV0)

/-- A skip that is taken adds 2 to PC modulo 65536 (30_encoding.md R54). -/
def skipIf (taken : Bool) (s : State) : State := if taken then s.setPc (s.pc + 2) else s

/-- `EA(k) = (I + k) & 0xFFF` (42_index_memory.md R86). -/
def effAddr (base : Word) (k : Nat) : Nat := maskAddr (base.toNat + k)

/-- The k-th byte at I. -/
def State.operandByte (s : State) (k : Nat) : Byte := s.memRead (s.i.toNat + k)

/-- The key a key skip tests: none when the register's value is above 15 (44_timers_keys.md R93, R94). -/
def keyIndex (b : Byte) : Option KeyCode := if h : b.toNat < 16 then some ⟨b.toNat, h⟩ else Option.none

/-- The address of the glyph for a value, 5 bytes a glyph, the value not reduced (42_index_memory.md R82). -/
def glyphAddress (b : Byte) : Word := BitVec.ofNat 16 (b.toNat * 5)

/-- Hundreds, tens, ones (42_index_memory.md R83). -/
def decimalDigits (b : Byte) : List Byte :=
  [BitVec.ofNat 8 (b.toNat / 100), BitVec.ofNat 8 (b.toNat / 10 % 10), BitVec.ofNat 8 (b.toNat % 10)]

/-- The registers V0..Vx, ascending (42_index_memory.md R84, R85). -/
def regsUpTo (x : Reg) : List Reg := (List.finRange 16).filter (fun r => decide (r ≤ x))

/-- The values of V0..Vx. -/
def State.groupValues (s : State) (x : Reg) : List Byte := (regsUpTo x).map s.getV

/-- V[r] <- the r-th byte at I for each register of a list, in its order; the bytes are those of `src`. -/
def loadGroup (src : State) : List Reg → State → State
  | [], t => t
  | r :: rs, t => loadGroup src rs (t.setV r (src.operandByte r.val))

/-- `I <- (I + x + 1) mod 65536` (42_index_memory.md R84, R85). -/
def advanceI (x : Reg) (s : State) : State := s.setI (s.i + BitVec.ofNat 16 (x.val + 1))

end Sys2Proof.Machine
end

