-- ==== Sys2Proof/Machine/Alu.lean ====
section
/-!
DEFINITION. Register loads, arithmetic, logic, shifts, random and the reserved words of family 8 (41_alu.md). None of
them changes PC beyond the fetch's advance, accesses memory or faults.
-/

namespace Sys2Proof.Machine

/-- 6xkk (R67). -/
def execLdVxKk (x : Reg) (kk : Byte) (s : State) : Result := .next (s.setV x kk)

/-- 7xkk: modulo 256, no flag (R68). -/
def execAddVxKk (x : Reg) (kk : Byte) (s : State) : Result := .next (s.setV x (s.getV x + kk))

/-- 8xy0 (R69). -/
def execLdVxVy (x y : Reg) (s : State) : Result := .next (s.setV x (s.getV y))

/-- 8xy1, no flag (R70). -/
def execOr (x y : Reg) (s : State) : Result := .next (s.setV x (s.getV x ||| s.getV y))

/-- 8xy2, no flag (R71). -/
def execAnd (x y : Reg) (s : State) : Result := .next (s.setV x (s.getV x &&& s.getV y))

/-- 8xy3, no flag (R72). -/
def execXor (x y : Reg) (s : State) : Result := .next (s.setV x (s.getV x ^^^ s.getV y))

/-- 8xy4: VF is the carry, then V[x] is the sum modulo 256 (R73, R66). -/
def execAddVxVy (x y : Reg) (s : State) : Result :=
  let a := s.getV x
  let b := s.getV y
  .next (flagThenResult x (carryFlag a b) (a + b) s)

/-- 8xy5: VF is NOT borrow, then V[x] is V[x] - V[y] (R74, R66). -/
def execSub (x y : Reg) (s : State) : Result :=
  let a := s.getV x
  let b := s.getV y
  .next (flagThenResult x (notBorrowFlag a b) (a - b) s)

/-- 8xy6: VF is bit 0, then V[x] is shifted right by one; y is ignored (R75, R66). -/
def execShr (x : Reg) (s : State) : Result :=
  .next (flagThenUpdate x (shrFlag (s.getV x)) (fun a => a >>> 1) s)

/-- 8xy7: VF is NOT borrow, then V[x] is V[y] - V[x] (R76, R66). -/
def execSubn (x y : Reg) (s : State) : Result :=
  let a := s.getV x
  let b := s.getV y
  .next (flagThenResult x (notBorrowFlag b a) (b - a) s)

/-- 8xyE for either value of SHL_VF_RAW: VF is bit 7, then V[x] is shifted left by one in 8 bits (R77, R66). -/
def shiftLeft (raw : Bool) (x : Reg) (s : State) : State :=
  flagThenUpdate x (shlFlag raw (s.getV x)) (fun a => a <<< 1) s

/-- 8xyE on this hardware; y is ignored (R77). -/
def execShl (x : Reg) (s : State) : Result := .next (shiftLeft shlVfRaw x s)

/-- Cxkk: the byte sampled in this Step, masked (R78). -/
def execRnd (x : Reg) (kk : Byte) (s : State) : Result := .next (s.sampled.setV x (s.rndByte &&& kk))

/-- 8xyN reserved: nothing (R79). -/
def execNop8 (s : State) : Result := .next s

end Sys2Proof.Machine
end

