-- ==== Sys2Proof/Machine/Control.lean ====
section
/-!
DEFINITION. Control transfer (40_control.md). PC holds A + 2 when a meaning starts (30_encoding.md R53).
-/

namespace Sys2Proof.Machine

/-- 00EE: fault 1 on an empty stack; else PC is the popped entry, which is not cleared, and SP goes down (R55, R104). -/
def execRet (s : State) : Result :=
  match s.sp with
  | Option.none => .next (raise .stackUnderflow s)
  | some j => .next ((s.setPc (s.getStack j)).setSp (popSlot j))

/-- 0nnn: a plain jump, nothing is pushed (R56). -/
def execSys (nnn : Addr12) (s : State) : Result := .next (s.setPc (immAddress nnn))

/-- 1nnn (R57). -/
def execJp (nnn : Addr12) (s : State) : Result := .next (s.setPc (immAddress nnn))

/-- 2nnn: fault 2 on a full stack; else SP goes up, PC (A + 2) is pushed there, and PC is nnn (R58, R105). -/
def execCall (nnn : Addr12) (s : State) : Result :=
  match pushSlot s.sp with
  | Option.none => .next (raise .stackOverflow s)
  | some j => .next (((s.setSp (some j)).setStack j s.pc).setPc (immAddress nnn))

/-- 3xkk (R59). -/
def execSeVxKk (x : Reg) (kk : Byte) (s : State) : Result := .next (skipIf (s.getV x == kk) s)

/-- 4xkk (R60). -/
def execSneVxKk (x : Reg) (kk : Byte) (s : State) : Result := .next (skipIf (s.getV x != kk) s)

/-- 5xyN (R61). -/
def execSeVxVy (x y : Reg) (s : State) : Result := .next (skipIf (s.getV x == s.getV y) s)

/-- 9xyN (R62). -/
def execSneVxVy (x y : Reg) (s : State) : Result := .next (skipIf (s.getV x != s.getV y) s)

/-- Bnnn (R63). -/
def execJpV0 (nnn : Addr12) (s : State) : Result := .next (s.setPc (indexedTarget nnn s))

end Sys2Proof.Machine
end

