-- ==== Sys2Proof/Machine/Raster.lean ====
section
/-!
DEFINITION. The sprite rasteriser, pixel by pixel (43_display.md R87, R89), and the display readout (R92).
-/

namespace Sys2Proof.Machine

/-- All 2048 pixels 0 (43_display.md R88). -/
def Display.blank : Display := Vector.replicate 32 (Vector.replicate 64 false)

/-- `PIX[row][col]`. -/
def Display.pixel (p : Display) (row : Fin 32) (col : Fin 64) : Bool := p[row][col]

/-- `PIX[row][col]` of a state. -/
def State.getPixel (s : State) (row : Fin 32) (col : Fin 64) : Bool := s.pix.pixel row col

/-- `PIX[row][col] <- PIX[row][col] ^ 1`. -/
def Display.flip (p : Display) (row : Fin 32) (col : Fin 64) : Display :=
  p.set row (p[row].set col (!p[row][col]))

/-- The display and the collision flag while a sprite is being drawn. -/
structure Canvas where
  pix : Display
  hit : Bool
  deriving DecidableEq, Repr

/-- A set sprite pixel: a lit pixel under it is a collision, and the pixel is inverted (R89). -/
def drawPixel (row : Fin 32) (col : Fin 64) (c : Canvas) : Canvas :=
  { pix := c.pix.flip row col, hit := c.hit || c.pix.pixel row col }

/-- Sprite pixel b of a row byte: b = 0 is the leftmost, bit 7 (R89). -/
def spriteBit (sprite : Byte) (b : Nat) : Bool := sprite.getLsbD (7 - b)

/-- Column `(vx + b) mod 64` (R89). -/
def spriteCol (vx : Byte) (b : Nat) : Fin 64 := Fin.ofNat 64 (vx.toNat + b)

/-- Row `(vy + r) mod 32` (R89). -/
def spriteRow (vy : Byte) (r : Nat) : Fin 32 := Fin.ofNat 32 (vy.toNat + r)

/-- One sprite row: the eight pixels from the left (R89). -/
def drawRow (row : Fin 32) (vx sprite : Byte) (c : Canvas) : Canvas :=
  (List.range 8).foldl (fun c b => if spriteBit sprite b then drawPixel row (spriteCol vx b) c else c) c

/-- The rows of a sprite from row number r on (R89). -/
def drawRows (vx vy : Byte) : Nat → List Byte → Canvas → Canvas
  | _, [], c => c
  | r, sprite :: rest, c => drawRows vx vy (r + 1) rest (drawRow (spriteRow vy r) vx sprite c)

/-- The n sprite bytes at I (R89, R91 item 5). -/
def spriteBytes (s : State) (n : Nat) : List Byte := (List.range n).map (fun r => s.memRead (s.i.toNat + r))

/-- `fb`: the 2048 display bits in row-major order (R92). -/
def Display.bits (p : Display) : List Bool := p.toList.flatMap (fun row => row.toList)

end Sys2Proof.Machine
end

