-- ==== Sys2Proof/Machine/Display.lean ====
section
/-!
DEFINITION. The display instructions (43_display.md). Neither changes PC further or faults.
-/

namespace Sys2Proof.Machine

/-- 00E0: all pixels 0, VF untouched (R88). -/
def execCls (s : State) : Result := .next (s.setPix Display.blank)

/-- Dxyn: coordinates and I are read first, VF is written once at the end; n = 0 draws nothing and clears VF
(R89, R91). -/
def execDrw (x y : Reg) (n : Nibble) (s : State) : Result :=
  let c := drawRows (s.getV x) (s.getV y) 0 (spriteBytes s n.toNat) { pix := s.pix, hit := false }
  .next ((s.setPix c.pix).setV regVF (collisionFlag c.hit))

end Sys2Proof.Machine
end

