-- ==== Sys2Proof/Machine/Index.lean ====
section
/-!
DEFINITION. Index register and memory transfer (42_index_memory.md). None of them faults.
-/

namespace Sys2Proof.Machine

/-- Annn (R80). -/
def execLdINnn (nnn : Addr12) (s : State) : Result := .next (s.setI (immAddress nnn))

/-- Fx1E: sum = (I & 0xFFF) + V[x]; VF is the overflow of 12 bits; I is the sum, unmasked (R81). -/
def execAddIVx (x : Reg) (s : State) : Result :=
  let sum := maskAddr s.i.toNat + (s.getV x).toNat
  .next ((s.setV regVF (indexOverflowFlag sum)).setI (BitVec.ofNat 16 sum))

/-- Fx29 (R82). -/
def execLdFVx (x : Reg) (s : State) : Result := .next (s.setI (glyphAddress (s.getV x)))

/-- Fx33: the three digits at I, I+1, I+2; I is unchanged (R83). -/
def execLdBVx (x : Reg) (s : State) : Result := .next (s.memStore s.i.toNat (decimalDigits (s.getV x)))

/-- Fx55: V0..Vx at I onward, then I advances by x + 1 (R84). -/
def execLdMemVx (x : Reg) (s : State) : Result := .next (advanceI x (s.memStore s.i.toNat (s.groupValues x)))

/-- Fx65: V0..Vx from I onward, then I advances by x + 1 (R85). -/
def execLdVxMem (x : Reg) (s : State) : Result := .next (advanceI x (loadGroup s (regsUpTo x) s))

end Sys2Proof.Machine
end

