-- ==== Sys2Proof/Machine/KeysTimers.lean ====
section
/-!
DEFINITION. Key skips, timer access, the key wait, and the reserved words of families E and F (44_timers_keys.md).
-/

namespace Sys2Proof.Machine

/-- Ex9E: fault 3 for a value above 15; else skip if the key is down (R93, R106). -/
def execSkp (x : Reg) (s : State) : Result :=
  match keyIndex (s.getV x) with
  | Option.none => .next (raise .keyIndexOutOfRange s)
  | some k => .next (skipIf (s.getKey k) s)

/-- ExA1: fault 3 for a value above 15; else skip if the key is up (R94, R106). -/
def execSknp (x : Reg) (s : State) : Result :=
  match keyIndex (s.getV x) with
  | Option.none => .next (raise .keyIndexOutOfRange s)
  | some k => .next (skipIf (!s.getKey k) s)

/-- Fx07 (R95). -/
def execLdVxDt (x : Reg) (s : State) : Result := .next (s.setV x s.dt)

/-- Fx0A: the latch is set for register x; V[x] is not written now (R96). -/
def execLdVxK (x : Reg) (s : State) : Result := .next (s.setWait { active := true, target := x })

/-- Fx15 (R97). -/
def execLdDtVx (x : Reg) (s : State) : Result := .next (s.setDt (s.getV x))

/-- Fx18 (R98). -/
def execLdStVx (x : Reg) (s : State) : Result := .next (s.setSt (s.getV x))

/-- Exkk reserved: nothing, V[x] is not read (R99). -/
def execNope (s : State) : Result := .next s

/-- Fxkk reserved: nothing (R100). -/
def execNopf (s : State) : Result := .next s

end Sys2Proof.Machine
end

