-- ==== Sys2Proof/Syntax.lean ====
section
/-!
DEFINITION. The instruction set as syntax: one constructor for each of the 38 rows of spec/opcode_table.json
(30_encoding.md R46: 35 instructions; R49: three reserved groups). A bit of a word that its instruction ignores
(the low nibble of 5xyN and 9xyN, y of the shifts, the fields of the reserved groups) is kept as an operand, so
that no bit of a word is lost; the machine does not look at it (DESIGN CHOICE, log 10, safe).
-/

namespace Sys2Proof

inductive Instr where
  /-- 00E0, clear the display (R88). -/
  | cls
  /-- 00EE, return (R55). -/
  | ret
  /-- 0nnn (other), plain jump (R56). -/
  | sys (nnn : Addr12)
  /-- 1nnn, jump (R57). -/
  | jp (nnn : Addr12)
  /-- 2nnn, call (R58). -/
  | call (nnn : Addr12)
  /-- 3xkk, skip if V[x] = kk (R59). -/
  | seVxKk (x : Reg) (kk : Byte)
  /-- 4xkk, skip if V[x] ≠ kk (R60). -/
  | sneVxKk (x : Reg) (kk : Byte)
  /-- 5xyN, skip if V[x] = V[y]; the low nibble n is ignored (R61, R48). -/
  | seVxVy (x y : Reg) (n : Nibble)
  /-- 6xkk, load immediate (R67). -/
  | ldVxKk (x : Reg) (kk : Byte)
  /-- 7xkk, add immediate, no flag (R68). -/
  | addVxKk (x : Reg) (kk : Byte)
  /-- 8xy0, copy (R69). -/
  | ldVxVy (x y : Reg)
  /-- 8xy1 (R70). -/
  | orVxVy (x y : Reg)
  /-- 8xy2 (R71). -/
  | andVxVy (x y : Reg)
  /-- 8xy3 (R72). -/
  | xorVxVy (x y : Reg)
  /-- 8xy4, add with carry flag (R73). -/
  | addVxVy (x y : Reg)
  /-- 8xy5, V[x] - V[y] with NOT-borrow flag (R74). -/
  | subVxVy (x y : Reg)
  /-- 8xy6, shift V[x] right; y is ignored (R75). -/
  | shrVx (x y : Reg)
  /-- 8xy7, V[y] - V[x] with NOT-borrow flag (R76). -/
  | subnVxVy (x y : Reg)
  /-- 8xyE, shift V[x] left; y is ignored (R77). -/
  | shlVx (x y : Reg)
  /-- 8xyN with another N: reserved, no-op (R79). -/
  | nop8 (x y : Reg) (n : Nibble)
  /-- 9xyN, skip if V[x] ≠ V[y]; the low nibble n is ignored (R62, R48). -/
  | sneVxVy (x y : Reg) (n : Nibble)
  /-- Annn, load I (R80). -/
  | ldINnn (nnn : Addr12)
  /-- Bnnn, jump to nnn + V0 (R63). -/
  | jpV0 (nnn : Addr12)
  /-- Cxkk, masked random byte (R78). -/
  | rnd (x : Reg) (kk : Byte)
  /-- Dxyn, draw an n-row sprite (R89). -/
  | drw (x y : Reg) (n : Nibble)
  /-- Ex9E, skip if key V[x] is pressed (R93). -/
  | skp (x : Reg)
  /-- ExA1, skip if key V[x] is not pressed (R94). -/
  | sknp (x : Reg)
  /-- Exkk with another kk: reserved, no-op (R99). -/
  | nope (x : Reg) (kk : Byte)
  /-- Fx07, read the delay timer (R95). -/
  | ldVxDt (x : Reg)
  /-- Fx0A, wait for a key (R96). -/
  | ldVxK (x : Reg)
  /-- Fx15, set the delay timer (R97). -/
  | ldDtVx (x : Reg)
  /-- Fx18, set the sound timer (R98). -/
  | ldStVx (x : Reg)
  /-- Fx1E, add V[x] to I with overflow flag (R81). -/
  | addIVx (x : Reg)
  /-- Fx29, point I at a glyph (R82). -/
  | ldFVx (x : Reg)
  /-- Fx33, store the decimal digits of V[x] (R83). -/
  | ldBVx (x : Reg)
  /-- Fx55, store V0..Vx (R84). -/
  | ldMemVx (x : Reg)
  /-- Fx65, load V0..Vx (R85). -/
  | ldVxMem (x : Reg)
  /-- Fxkk with another kk: reserved, no-op (R100). -/
  | nopf (x : Reg) (kk : Byte)
  deriving DecidableEq, Repr

end Sys2Proof
end

