-- ==== Sys2Proof/WellFormed.lean ====
section
/-!
DEFINITION. Which terms of Instr stand for a word. Only four constructors have terms that no word decodes to:
the words they would spell belong to another row of the opcode map (30_encoding.md R47, R49).
-/

namespace Sys2Proof

/-- The two exact words of family 0 (R47): a SYS never has these operands. -/
abbrev sysReserved (nnn : Addr12) : Bool := nnn == 0x0E0 || nnn == 0x0EE

/-- The sub-opcodes of family 8 that are instructions (R47). -/
abbrev family8Used (n : Nibble) : Bool := n.toNat ≤ 7 || n == 0xE

/-- The sub-opcodes of family E that are instructions (R47). -/
abbrev familyEUsed (kk : Byte) : Bool := kk == 0x9E || kk == 0xA1

/-- The sub-opcodes of family F that are instructions (R47). -/
abbrev familyFUsed (kk : Byte) : Bool :=
  [0x07, 0x0A, 0x15, 0x18, 0x1E, 0x29, 0x33, 0x55, 0x65].contains kk

/-- The check a decoded instruction passes. -/
def Instr.wellFormed : Instr → Bool
  | .sys nnn => !sysReserved nnn
  | .nop8 _ _ n => !family8Used n
  | .nope _ kk => !familyEUsed kk
  | .nopf _ kk => !familyFUsed kk
  | .cls | .ret | .jp _ | .call _ | .seVxKk _ _ | .sneVxKk _ _ | .seVxVy _ _ _ | .ldVxKk _ _ | .addVxKk _ _
  | .ldVxVy _ _ | .orVxVy _ _ | .andVxVy _ _ | .xorVxVy _ _ | .addVxVy _ _ | .subVxVy _ _ | .shrVx _ _
  | .subnVxVy _ _ | .shlVx _ _ | .sneVxVy _ _ _ | .ldINnn _ | .jpV0 _ | .rnd _ _ | .drw _ _ _ | .skp _ | .sknp _
  | .ldVxDt _ | .ldVxK _ | .ldDtVx _ | .ldStVx _ | .addIVx _ | .ldFVx _ | .ldBVx _ | .ldMemVx _ | .ldVxMem _ => true

end Sys2Proof
end

