-- ==== Sys2Proof/Decode.lean ====
section
/-!
DEFINITION. Fields, the decoder (30_encoding.md R42, R43, R47 to R50), the opcode map as a table of rows (R46) and,
after them, the encoder.
-/

namespace Sys2Proof

/-! Fields of a word (R43). -/

/-- Bits 15..12, the family. -/
def fieldHi (op : Word) : Nibble := op.extractLsb' 12 4

/-- Bits 11..8 as a register index. -/
def fieldX (op : Word) : Reg := Nibble.toReg (op.extractLsb' 8 4)

/-- Bits 7..4 as a register index. -/
def fieldY (op : Word) : Reg := Nibble.toReg (op.extractLsb' 4 4)

/-- Bits 3..0. -/
def fieldN (op : Word) : Nibble := op.extractLsb' 0 4

/-- Bits 7..0. -/
def fieldKk (op : Word) : Byte := op.extractLsb' 0 8

/-- Bits 11..0. -/
def fieldNnn (op : Word) : Addr12 := op.extractLsb' 0 12

/-- Family 0: the two words matched on all 16 bits, else a jump (R47; 90_conflicts.md C4). -/
def decodeFamily0 (op : Word) : Instr :=
  if op = 0x00E0 then .cls
  else if op = 0x00EE then .ret
  else .sys (fieldNnn op)

/-- Family 8: sub-dispatch on n (R47); other values are reserved (R49). -/
def decodeFamily8 (op : Word) : Instr :=
  let x := fieldX op
  let y := fieldY op
  let n := fieldN op
  if n = 0x0 then .ldVxVy x y
  else if n = 0x1 then .orVxVy x y
  else if n = 0x2 then .andVxVy x y
  else if n = 0x3 then .xorVxVy x y
  else if n = 0x4 then .addVxVy x y
  else if n = 0x5 then .subVxVy x y
  else if n = 0x6 then .shrVx x y
  else if n = 0x7 then .subnVxVy x y
  else if n = 0xE then .shlVx x y
  else .nop8 x y n

/-- Family E: sub-dispatch on kk (R47); other values are reserved (R49). -/
def decodeFamilyE (op : Word) : Instr :=
  let x := fieldX op
  let kk := fieldKk op
  if kk = 0x9E then .skp x
  else if kk = 0xA1 then .sknp x
  else .nope x kk

/-- Family F: sub-dispatch on kk (R47); other values are reserved (R49). -/
def decodeFamilyF (op : Word) : Instr :=
  let x := fieldX op
  let kk := fieldKk op
  if kk = 0x07 then .ldVxDt x
  else if kk = 0x0A then .ldVxK x
  else if kk = 0x15 then .ldDtVx x
  else if kk = 0x18 then .ldStVx x
  else if kk = 0x1E then .addIVx x
  else if kk = 0x29 then .ldFVx x
  else if kk = 0x33 then .ldBVx x
  else if kk = 0x55 then .ldMemVx x
  else if kk = 0x65 then .ldVxMem x
  else .nopf x kk

/-- The decoder: the high nibble selects one of sixteen families (R47). Every word has an instruction (R50). -/
def decode (op : Word) : Instr :=
  let hi := fieldHi op
  if hi = 0x0 then decodeFamily0 op
  else if hi = 0x1 then .jp (fieldNnn op)
  else if hi = 0x2 then .call (fieldNnn op)
  else if hi = 0x3 then .seVxKk (fieldX op) (fieldKk op)
  else if hi = 0x4 then .sneVxKk (fieldX op) (fieldKk op)
  else if hi = 0x5 then .seVxVy (fieldX op) (fieldY op) (fieldN op)
  else if hi = 0x6 then .ldVxKk (fieldX op) (fieldKk op)
  else if hi = 0x7 then .addVxKk (fieldX op) (fieldKk op)
  else if hi = 0x8 then decodeFamily8 op
  else if hi = 0x9 then .sneVxVy (fieldX op) (fieldY op) (fieldN op)
  else if hi = 0xA then .ldINnn (fieldNnn op)
  else if hi = 0xB then .jpV0 (fieldNnn op)
  else if hi = 0xC then .rnd (fieldX op) (fieldKk op)
  else if hi = 0xD then .drw (fieldX op) (fieldY op) (fieldN op)
  else if hi = 0xE then decodeFamilyE op
  else decodeFamilyF op

/-- Why a byte string holds no instruction. -/
inductive DecodeError where
  /-- Fewer than two bytes: no word to decode (R42). Raised by decodeBytes only; the fetch always has two bytes. -/
  | truncated (bytes : Nat)
  deriving DecidableEq, Repr

/-- A word from two bytes, the byte at the lower address first (20_memory.md R30). -/
def wordOfBytes (hi8 lo8 : Byte) : Word := hi8 ++ lo8

/-- The decoder on bytes: the instruction at their head and the bytes after it. -/
def decodeBytes : List Byte → Except DecodeError (Instr × List Byte)
  | hi8 :: lo8 :: rest => .ok (decode (wordOfBytes hi8 lo8), rest)
  | bytes => .error (.truncated bytes.length)

/-! The opcode map as rows (R46, R49), in the priority order of R47. -/

/-- One row: the words with `op &&& mask = pattern`. -/
structure OpcodeRow where
  mnemonic : String
  mask : Word
  pattern : Word
  deriving DecidableEq, Repr

def opcodeRows0To7 : List OpcodeRow :=
  [⟨"CLS", 0xFFFF, 0x00E0⟩, ⟨"RET", 0xFFFF, 0x00EE⟩, ⟨"SYS", 0xF000, 0x0000⟩, ⟨"JP", 0xF000, 0x1000⟩,
   ⟨"CALL", 0xF000, 0x2000⟩, ⟨"SE_VX_KK", 0xF000, 0x3000⟩, ⟨"SNE_VX_KK", 0xF000, 0x4000⟩,
   ⟨"SE_VX_VY", 0xF000, 0x5000⟩, ⟨"LD_VX_KK", 0xF000, 0x6000⟩, ⟨"ADD_VX_KK", 0xF000, 0x7000⟩]

def opcodeRows8 : List OpcodeRow :=
  [⟨"LD_VX_VY", 0xF00F, 0x8000⟩, ⟨"OR", 0xF00F, 0x8001⟩, ⟨"AND", 0xF00F, 0x8002⟩, ⟨"XOR", 0xF00F, 0x8003⟩,
   ⟨"ADD_VX_VY", 0xF00F, 0x8004⟩, ⟨"SUB", 0xF00F, 0x8005⟩, ⟨"SHR", 0xF00F, 0x8006⟩, ⟨"SUBN", 0xF00F, 0x8007⟩,
   ⟨"SHL", 0xF00F, 0x800E⟩, ⟨"NOP8", 0xF000, 0x8000⟩]

def opcodeRows9ToE : List OpcodeRow :=
  [⟨"SNE_VX_VY", 0xF000, 0x9000⟩, ⟨"LD_I_NNN", 0xF000, 0xA000⟩, ⟨"JP_V0", 0xF000, 0xB000⟩,
   ⟨"RND", 0xF000, 0xC000⟩, ⟨"DRW", 0xF000, 0xD000⟩, ⟨"SKP", 0xF0FF, 0xE09E⟩, ⟨"SKNP", 0xF0FF, 0xE0A1⟩,
   ⟨"NOPE", 0xF000, 0xE000⟩]

def opcodeRowsF : List OpcodeRow :=
  [⟨"LD_VX_DT", 0xF0FF, 0xF007⟩, ⟨"LD_VX_K", 0xF0FF, 0xF00A⟩, ⟨"LD_DT_VX", 0xF0FF, 0xF015⟩,
   ⟨"LD_ST_VX", 0xF0FF, 0xF018⟩, ⟨"ADD_I_VX", 0xF0FF, 0xF01E⟩, ⟨"LD_F_VX", 0xF0FF, 0xF029⟩,
   ⟨"LD_B_VX", 0xF0FF, 0xF033⟩, ⟨"LD_MEM_VX", 0xF0FF, 0xF055⟩, ⟨"LD_VX_MEM", 0xF0FF, 0xF065⟩,
   ⟨"NOPF", 0xF000, 0xF000⟩]

/-- The 38 rows of spec/opcode_table.json. -/
def opcodeRows : List OpcodeRow := opcodeRows0To7 ++ opcodeRows8 ++ opcodeRows9ToE ++ opcodeRowsF

/-- The first row that a word matches (R47: "the first row whose (op & mask) = match holds wins"). -/
def firstRow (op : Word) : Option OpcodeRow := opcodeRows.find? fun r => op &&& r.mask == r.pattern

/-- The table's name of an instruction. -/
def Instr.mnemonic : Instr → String
  | .cls => "CLS"
  | .ret => "RET"
  | .sys _ => "SYS"
  | .jp _ => "JP"
  | .call _ => "CALL"
  | .seVxKk _ _ => "SE_VX_KK"
  | .sneVxKk _ _ => "SNE_VX_KK"
  | .seVxVy _ _ _ => "SE_VX_VY"
  | .ldVxKk _ _ => "LD_VX_KK"
  | .addVxKk _ _ => "ADD_VX_KK"
  | .ldVxVy _ _ => "LD_VX_VY"
  | .orVxVy _ _ => "OR"
  | .andVxVy _ _ => "AND"
  | .xorVxVy _ _ => "XOR"
  | .addVxVy _ _ => "ADD_VX_VY"
  | .subVxVy _ _ => "SUB"
  | .shrVx _ _ => "SHR"
  | .subnVxVy _ _ => "SUBN"
  | .shlVx _ _ => "SHL"
  | .nop8 _ _ _ => "NOP8"
  | .sneVxVy _ _ _ => "SNE_VX_VY"
  | .ldINnn _ => "LD_I_NNN"
  | .jpV0 _ => "JP_V0"
  | .rnd _ _ => "RND"
  | .drw _ _ _ => "DRW"
  | .skp _ => "SKP"
  | .sknp _ => "SKNP"
  | .nope _ _ => "NOPE"
  | .ldVxDt _ => "LD_VX_DT"
  | .ldVxK _ => "LD_VX_K"
  | .ldDtVx _ => "LD_DT_VX"
  | .ldStVx _ => "LD_ST_VX"
  | .addIVx _ => "ADD_I_VX"
  | .ldFVx _ => "LD_F_VX"
  | .ldBVx _ => "LD_B_VX"
  | .ldMemVx _ => "LD_MEM_VX"
  | .ldVxMem _ => "LD_VX_MEM"
  | .nopf _ _ => "NOPF"

/-! The encoder, from the formats of R44 and the patterns of R46. -/

/-- F-NNN. -/
def encNnn (hi : Nibble) (nnn : Addr12) : Word := hi ++ nnn

/-- F-XKK and F-XFF. -/
def encXKk (hi : Nibble) (x : Reg) (kk : Byte) : Word := (hi ++ regNibble x) ++ kk

/-- F-XYF and F-XYN. -/
def encXYN (hi : Nibble) (x y : Reg) (n : Nibble) : Word := (hi ++ regNibble x) ++ (regNibble y ++ n)

/-- The word of a well-formed instruction. -/
def encode : Instr → Word
  | .cls => 0x00E0
  | .ret => 0x00EE
  | .sys nnn => encNnn 0x0 nnn
  | .jp nnn => encNnn 0x1 nnn
  | .call nnn => encNnn 0x2 nnn
  | .seVxKk x kk => encXKk 0x3 x kk
  | .sneVxKk x kk => encXKk 0x4 x kk
  | .seVxVy x y n => encXYN 0x5 x y n
  | .ldVxKk x kk => encXKk 0x6 x kk
  | .addVxKk x kk => encXKk 0x7 x kk
  | .ldVxVy x y => encXYN 0x8 x y 0x0
  | .orVxVy x y => encXYN 0x8 x y 0x1
  | .andVxVy x y => encXYN 0x8 x y 0x2
  | .xorVxVy x y => encXYN 0x8 x y 0x3
  | .addVxVy x y => encXYN 0x8 x y 0x4
  | .subVxVy x y => encXYN 0x8 x y 0x5
  | .shrVx x y => encXYN 0x8 x y 0x6
  | .subnVxVy x y => encXYN 0x8 x y 0x7
  | .shlVx x y => encXYN 0x8 x y 0xE
  | .nop8 x y n => encXYN 0x8 x y n
  | .sneVxVy x y n => encXYN 0x9 x y n
  | .ldINnn nnn => encNnn 0xA nnn
  | .jpV0 nnn => encNnn 0xB nnn
  | .rnd x kk => encXKk 0xC x kk
  | .drw x y n => encXYN 0xD x y n
  | .skp x => encXKk 0xE x 0x9E
  | .sknp x => encXKk 0xE x 0xA1
  | .nope x kk => encXKk 0xE x kk
  | .ldVxDt x => encXKk 0xF x 0x07
  | .ldVxK x => encXKk 0xF x 0x0A
  | .ldDtVx x => encXKk 0xF x 0x15
  | .ldStVx x => encXKk 0xF x 0x18
  | .addIVx x => encXKk 0xF x 0x1E
  | .ldFVx x => encXKk 0xF x 0x29
  | .ldBVx x => encXKk 0xF x 0x33
  | .ldMemVx x => encXKk 0xF x 0x55
  | .ldVxMem x => encXKk 0xF x 0x65
  | .nopf x kk => encXKk 0xF x kk

/-- The two bytes of a word as they lie in memory, the more significant first (20_memory.md R30). -/
def bytesOfWord (op : Word) : List Byte := [op.extractLsb' 8 8, op.extractLsb' 0 8]

/-- The word a table row's number `w` of `nbits` bits spells. An instruction has 16 bits, so the bits above nbits
are 0. -/
def tableWord (nbits w : Nat) : Word := BitVec.ofNat 16 (w % 2 ^ nbits)

/-- What the decoder reads from the instruction whose bits are `w` (30_encoding.md R42: no word is longer than 16
bits, so a longer row has no instruction). -/
def decodeTableWord (nbits w : Nat) : Option Instr :=
  if nbits ≤ 16 then
    match decodeBytes (bytesOfWord (tableWord nbits w)) with
    | .ok (i, _) => some i
    | .error _ => none
  else none

end Sys2Proof
end

