-- ==== Sys2Proof/Machine/Fetch.lean ====
section
/-!
DEFINITION. Fetching an instruction (20_memory.md R30, 30_encoding.md R53) and placing one where the next fetch reads.
-/

namespace Sys2Proof.Machine

/-- `MemRead(PC, 1) ∥ MemRead(PC + 1, 1)`, each byte masked on its own (R29, R30). -/
def State.fetchWord (s : State) : Word := wordOfBytes (s.memRead s.pc.toNat) (s.memRead (s.pc.toNat + 1))

/-- `PC <- (PC + 2) mod 65536`, before dispatch (R53). -/
def State.advancePc (s : State) : State := s.setPc (s.pc + 2)

/-- A Step changes nothing: a fault is latched, or a key wait holds (R53). -/
def State.held (s : State) : Bool := s.fault != .none || s.wait.active

/-- Lift what keeps the next step from fetching: events of the environment, a fault, a key wait. -/
def State.released (s : State) : State :=
  (((s.setAgenda []).setEnv .steps).setFault .none).setWait { s.wait with active := false }

/-- The two bytes of a word at PC. -/
def State.placeWord (s : State) (op : Word) : State := s.memStore s.pc.toNat (bytesOfWord op)

end Sys2Proof.Machine
end

