-- ==== Sys2Proof/Machine/Events.lean ====
section
/-!
DEFINITION. The five events (00_scope.md R5): Step (30_encoding.md R53), Tick and its batch (60_exceptions.md R112,
R113), KeySample (R115, R117), Reset (70_reset_and_hazards.md R125, R126), Readout (43_display.md R92), and what the
block offers outside (60_exceptions.md R114).
-/

namespace Sys2Proof.Machine

/-! Step. -/

/-- The Step event: nothing while held, else one instruction on the advanced PC (30_encoding.md R53). -/
def stepEvent (s : State) : Result :=
  if s.held then .next s else exec (decode s.fetchWord) s.advancePc

/-- `Step(rnd)`: the environment drives `rnd` during this Step only (00_scope.md R9). -/
def stepWith (rnd : Byte) (s : State) : Result :=
  match stepEvent (s.setRndPort (some rnd)) with
  | .next t => .next (t.setRndPort s.rndPort)
  | .fault r => .fault r
  | .refused r => .refused r

/-! Tick. -/

/-- A timer goes down by one and stays at 0 (60_exceptions.md R112). -/
def countDown (b : Byte) : Byte := if b = 0 then 0 else b - 1

/-- The Tick event: both timers, nothing else; it acts in every hold (R112). -/
def tickEvent (s : State) : State := (s.setDt (countDown s.dt)).setSt (countDown s.st)

/-- `snd_dec` of a Tick: 1 if it finds ST > 0 (R112, R114). -/
def sndDec (s : State) : Nat := if s.st = 0 then 0 else 1

/-- `Tick(k)`: k Ticks with nothing in between (R113). -/
def tickBatch : Nat → State → State
  | 0, s => s
  | k + 1, s => tickBatch k (tickEvent s)

/-- The decrements that a batch applies to ST (R113, R114). -/
def sndDecBatch : Nat → State → Nat
  | 0, _ => 0
  | k + 1, s => sndDec s + sndDecBatch k (tickEvent s)

/-! KeySample. -/

/-- The keys that go down: stored level false, new level true, ascending (R115). -/
def risingEdges (old new : Vector Bool 16) : List KeyCode :=
  (List.finRange 16).filter (fun k => !old[k] && new[k])

/-- The KeySample event for any tie-break: all levels are replaced; a wait ends on a rising edge, with one of the
edges' codes in the target register (R115, R117). -/
def keySampleWith (tiebreak : List KeyCode → Option KeyCode) (new : Vector Bool 16) (s : State) : State :=
  let edges := risingEdges s.keys new
  let t := s.setKeys new
  if s.wait.active then
    match tiebreak edges with
    | Option.none => t
    | some k => (t.setV s.wait.target (BitVec.ofNat 8 k.val)).setWait { s.wait with active := false }
  else t

/-- The KeySample event of this hardware. -/
def keySampleEvent (new : Vector Bool 16) (s : State) : State := keySampleWith keyTiebreak new s

/-! Reset. -/

/-- Memory after a program load: a font at 0x000 and the rom at 0x200 over zero; the font of this hardware is what
unlisted addresses read as, and another font is stored over it (70_reset_and_hazards.md R125). -/
def bootMemory (fontBytes rom : List Byte) : Memory :=
  Memory.storeBytes (Memory.storeBytes [] 0 fontBytes) Config.programOrigin rom

/-- The block's state after Reset, whatever it held; the environment's inputs are not the block's and stay
(R125; log 12). -/
def State.boot (fontBytes rom : List Byte) (s : State) : State :=
  { State.reset with
    mem := bootMemory fontBytes rom, agenda := s.agenda, env := s.env, rndPort := s.rndPort,
    draws := s.draws }

/-- The Reset event: a rom longer than the program area is refused (R126). -/
def resetEvent (rom : List Byte) (s : State) : Result :=
  if rom.length ≤ Config.romMax then .next (s.boot font rom) else .refused (.romTooLong rom.length)

/-! Issuing an event, and what it shows outside. -/

/-- One event on the block. -/
def issue : Event → State → Result
  | .reset rom, s => resetEvent rom s
  | .step rnd, s => stepWith rnd s
  | .tick, s => .next (tickEvent s)
  | .tickBatch k, s => .next (tickBatch k s)
  | .keySample new, s => .next (keySampleEvent new s)
  | .readout, s => .next s

/-- What an event hands to its issuer. -/
inductive Output where
  /-- Nothing. -/
  | silent
  /-- The 2048 display bits (43_display.md R92). -/
  | frame (bits : List Bool)
  /-- `snd_dec` (60_exceptions.md R114). -/
  | soundDecrement (n : Nat)
  deriving DecidableEq, Repr

/-- The output of an event issued in a state. -/
def output : Event → State → Output
  | .readout, s => .frame s.pix.bits
  | .tick, s => .soundDecrement (sndDec s)
  | .tickBatch k, s => .soundDecrement (sndDecBatch k s)
  | .reset _, _ => .silent
  | .step _, _ => .silent
  | .keySample _, _ => .silent

/-! Which event comes next (00_scope.md R6; log 1). -/

/-- The event that the environment issues next, and the state once it is taken; none when the environment only issues
a Step with the byte that the port holds. `seq` is the infinite interleaving of a free environment. -/
def State.takeEvent (seq : Nat → Event) (s : State) : Option Event × State :=
  match s.agenda with
  | e :: rest => (some e, s.setAgenda rest)
  | [] =>
    match s.env with
    | .steps => (Option.none, s)
    | .free k => (some (seq k), s.setEnv (.free (k + 1)))

/-- One step under a given infinite interleaving. -/
def stepUnder (seq : Nat → Event) (s : State) : Result :=
  match s.takeEvent seq with
  | (some e, t) => issue e t
  | (Option.none, t) => stepEvent t

end Sys2Proof.Machine
end

