-- ==== Sys2Proof/Machine/Step.lean ====
section
/-!
DEFINITION. One step of the model: the next event of the environment, its infinite interleaving being a free value
(00_scope.md R5, R6; DESIGN CHOICE, log 1, safe); and placing an instruction where the next step fetches.
-/

namespace Sys2Proof.Machine

def step (s : State) : Host.Outcome State Fault Refusal :=
  stepUnder Config.freeEvent s

/-- The instruction whose bits are `w` at PC, with whatever would keep the very next step from fetching it lifted:
pending events, a latched fault, a key wait (DESIGN CHOICE, log 12, safe). -/
def State.withFetchWord (s : State) (nbits w : Nat) : State := s.released.placeWord (tableWord nbits w)

end Sys2Proof.Machine
end

