-- ==== Sys2Proof/Machine/Packed.lean ====
section
/-!
DEFINITION. The packed display of 256 bytes (10_state.md R23, 43_display.md R87) and the byte-level description of
one sprite row (R90). The machine uses the pixel form; this second form is for an implementation that keeps packed
bytes, and the obligations state that the two agree.
-/

namespace Sys2Proof.Machine

/-- `DISP[0..255]`. -/
abbrev PackedDisplay := Vector Byte 256

/-- The byte whose bit 7 - j is the j-th of eight pixels (R87: the most significant bit is the leftmost). -/
def byteOfPixels (px : Nat → Bool) : Byte :=
  BitVec.ofNat 8 ((List.range 8).foldl (fun acc j => 2 * acc + (px j).toNat) 0)

/-- `DISP[k]`: row k div 8, columns 8 * (k mod 8) .. + 7 (R87). -/
def Display.packedByte (p : Display) (k : Fin 256) : Byte :=
  byteOfPixels (fun j => p.pixel (Fin.ofNat 32 (k.val / 8)) (Fin.ofNat 64 (k.val % 8 * 8 + j)))

/-- The packed form of a display. -/
def Display.pack (p : Display) : PackedDisplay := Vector.ofFn (fun k => p.packedByte k)

/-- The packed display and the collision flag. -/
structure PackedCanvas where
  disp : PackedDisplay
  hit : Bool
  deriving DecidableEq, Repr

/-- One sprite row on the packed bytes: o = vx mod 8, bx = (vx mod 64) div 8, byte bx and the next byte of the same
row, the collision tested on the old bytes (R90). A shift by 8 gives 0. -/
def packedDrawRow (row : Fin 32) (vx sprite : Byte) (c : PackedCanvas) : PackedCanvas :=
  let o := vx.toNat % 8
  let bx := vx.toNat % 64 / 8
  let i1 : Fin 256 := Fin.ofNat 256 (row.val * 8 + bx)
  let i2 : Fin 256 := Fin.ofNat 256 (row.val * 8 + (bx + 1) % 8)
  let c1 := sprite >>> o
  let c2 := sprite <<< (8 - o)
  let d1 := c.disp[i1]
  let d2 := c.disp[i2]
  { disp := (c.disp.set i1 (d1 ^^^ c1)).set i2 (d2 ^^^ c2)
    hit := c.hit || decide (d1 &&& c1 ≠ 0) || decide (d2 &&& c2 ≠ 0) }

end Sys2Proof.Machine
end

