-- ==== Sys2Proof/Machine/Signals.lean ====
section
/-!
DEFINITION. The suggested signal-level interface (00_scope.md R7) and the priority of its strobes (60_exceptions.md
R108). The spec rests nothing on it, and neither does the rest of the model (DESIGN CHOICE, log 13, unsafe for claims about
the pins).
-/

namespace Sys2Proof.Machine

/-- The input pins in one clock. -/
structure PinsIn where
  rstLoad : Bool
  /-- `rom_data`, 8 x 3584. -/
  romData : Vector Byte 3584
  /-- `rom_len`, 12 bits: how many bytes of the data are the image. -/
  romLen : BitVec 12
  step : Bool
  rnd : Byte
  tick60 : Bool
  keyStrobe : Bool
  keyIn : BitVec 16
  deriving DecidableEq, Repr

/-- The output pins. -/
structure PinsOut where
  fb : List Bool
  stValue : Byte
  waiting : Bool
  fault : BitVec 2
  deriving DecidableEq, Repr

/-- Bit k of `key_in` is the level of key k (R7). -/
def keyLevels (keyIn : BitVec 16) : Vector Bool 16 := Vector.ofFn (fun k => keyIn.getLsbD k.val)

/-- The image for Reset: the first `rom_len` bytes of the data (R7). A length above 3584 stays an image of that length,
which Reset refuses (70_reset_and_hazards.md R126), and is not cut to the data. -/
def PinsIn.romImage (p : PinsIn) : List Byte := (List.range p.romLen.toNat).map (fun j => p.romData[j]?.getD 0)

/-- The one strobe honoured in a clock: rst_load, then step, then tick60, then key_strobe (R108). -/
def honoured (p : PinsIn) : Option Event :=
  if p.rstLoad then some (.reset p.romImage)
  else if p.step then some (.step p.rnd)
  else if p.tick60 then some .tick
  else if p.keyStrobe then some (.keySample (keyLevels p.keyIn))
  else Option.none

/-- One clock: the honoured event, or nothing. -/
def clockEdge (p : PinsIn) (s : State) : Result :=
  match honoured p with
  | some e => issue e s
  | Option.none => .next s

/-- The outputs in a state (R7). -/
def pinsOut (s : State) : PinsOut where
  fb := s.pix.bits
  stValue := s.st
  waiting := s.wait.active
  fault := s.fault.code

end Sys2Proof.Machine
end

