-- ==== Sys2Proof/Safety.lean ====
section
/-!
DEFINITION. The terms in which claims about the machine are made: the invariant, running and held states, what an
instruction leaves unchanged, which pieces each instruction may write, runs of several events, and states that a
program cannot tell apart.
-/

namespace Sys2Proof.Machine

/-! Invariant and modes of a run. -/

/-- What holds in every state reachable from a Reset (10_state.md R27 item 4), and the memory's canonical form. The
ranges of R27 items 1 and 2 hold by the types of the fields. -/
abbrev State.inv (s : State) : Prop :=
  Memory.wf s.mem ∧ ¬(s.wait.active = true ∧ s.fault ≠ .none)

/-- The next step is a Step that executes an instruction (30_encoding.md R53). -/
abbrev State.running (s : State) : Prop :=
  s.agenda = [] ∧ s.env = .steps ∧ s.fault = .none ∧ s.wait.active = false

/-! Frames. -/

/-- The pieces of state other than the general registers. -/
inductive Piece where
  | pc | i | sp | stack | dt | st | keys | wait | fault | pix | mem | agenda | env | rndPort | draws
  deriving DecidableEq, Repr

/-- A piece is the same before and after; memory byte by byte at every address, the arrays entry by entry. -/
def Piece.same (p : Piece) (s t : State) : Prop :=
  match p with
  | .pc => t.pc = s.pc
  | .i => t.i = s.i
  | .sp => t.sp = s.sp
  | .stack => ∀ j, t.getStack j = s.getStack j
  | .dt => t.dt = s.dt
  | .st => t.st = s.st
  | .keys => ∀ k, t.getKey k = s.getKey k
  | .wait => t.wait = s.wait
  | .fault => t.fault = s.fault
  | .pix => ∀ row col, t.getPixel row col = s.getPixel row col
  | .mem => ∀ a, t.memRead a = s.memRead a
  | .agenda => t.agenda = s.agenda
  | .env => t.env = s.env
  | .rndPort => t.rndPort = s.rndPort
  | .draws => t.draws = s.draws

/-- Everything but the listed registers and pieces is the same. -/
def UnchangedBut (regs : List Reg) (pieces : List Piece) (s t : State) : Prop :=
  (∀ r, r ∉ regs → t.getV r = s.getV r) ∧ ∀ p, p ∉ pieces → p.same s t

/-- The general registers an instruction may write: its destination, and VF for the seven flag writers of 10_state.md
R13. -/
def writesRegs : Instr → List Reg
  | .ldVxKk x _ => [x]
  | .addVxKk x _ => [x]
  | .ldVxVy x _ => [x]
  | .orVxVy x _ => [x]
  | .andVxVy x _ => [x]
  | .xorVxVy x _ => [x]
  | .addVxVy x _ => [x, regVF]
  | .subVxVy x _ => [x, regVF]
  | .shrVx x _ => [x, regVF]
  | .subnVxVy x _ => [x, regVF]
  | .shlVx x _ => [x, regVF]
  | .rnd x _ => [x]
  | .drw _ _ _ => [regVF]
  | .ldVxDt x => [x]
  | .addIVx _ => [regVF]
  | .ldVxMem x => regsUpTo x
  | .cls => []
  | .ret => []
  | .sys _ => []
  | .jp _ => []
  | .call _ => []
  | .seVxKk _ _ => []
  | .sneVxKk _ _ => []
  | .seVxVy _ _ _ => []
  | .nop8 _ _ _ => []
  | .sneVxVy _ _ _ => []
  | .ldINnn _ => []
  | .jpV0 _ => []
  | .skp _ => []
  | .sknp _ => []
  | .nope _ _ => []
  | .ldVxK _ => []
  | .ldDtVx _ => []
  | .ldStVx _ => []
  | .ldFVx _ => []
  | .ldBVx _ => []
  | .ldMemVx _ => []
  | .nopf _ _ => []

/-- The other pieces an instruction may write after the fetch's advance of PC (10_state.md, "written by" of each
piece). -/
def writesPieces : Instr → List Piece
  | .cls => [.pix]
  | .ret => [.pc, .sp, .fault]
  | .sys _ => [.pc]
  | .jp _ => [.pc]
  | .call _ => [.pc, .sp, .stack, .fault]
  | .seVxKk _ _ => [.pc]
  | .sneVxKk _ _ => [.pc]
  | .seVxVy _ _ _ => [.pc]
  | .ldVxKk _ _ => []
  | .addVxKk _ _ => []
  | .ldVxVy _ _ => []
  | .orVxVy _ _ => []
  | .andVxVy _ _ => []
  | .xorVxVy _ _ => []
  | .addVxVy _ _ => []
  | .subVxVy _ _ => []
  | .shrVx _ _ => []
  | .subnVxVy _ _ => []
  | .shlVx _ _ => []
  | .nop8 _ _ _ => []
  | .sneVxVy _ _ _ => [.pc]
  | .ldINnn _ => [.i]
  | .jpV0 _ => [.pc]
  | .rnd _ _ => [.draws]
  | .drw _ _ _ => [.pix]
  | .skp _ => [.pc, .fault]
  | .sknp _ => [.pc, .fault]
  | .nope _ _ => []
  | .ldVxDt _ => []
  | .ldVxK _ => [.wait]
  | .ldDtVx _ => [.dt]
  | .ldStVx _ => [.st]
  | .addIVx _ => [.i]
  | .ldFVx _ => [.i]
  | .ldBVx _ => [.mem]
  | .ldMemVx _ => [.mem, .i]
  | .ldVxMem _ => [.i]
  | .nopf _ _ => []

/-- The instructions that set PC absolutely (30_encoding.md R54). -/
def setsPc : Instr → Bool
  | .ret => true
  | .sys _ => true
  | .jp _ => true
  | .call _ => true
  | .jpV0 _ => true
  | .cls | .seVxKk _ _ | .sneVxKk _ _ | .seVxVy _ _ _ | .ldVxKk _ _ | .addVxKk _ _ | .ldVxVy _ _ | .orVxVy _ _
  | .andVxVy _ _ | .xorVxVy _ _ | .addVxVy _ _ | .subVxVy _ _ | .shrVx _ _ | .subnVxVy _ _ | .shlVx _ _
  | .nop8 _ _ _ | .sneVxVy _ _ _ | .ldINnn _ | .rnd _ _ | .drw _ _ _ | .skp _ | .sknp _ | .nope _ _ | .ldVxDt _
  | .ldVxK _ | .ldDtVx _ | .ldStVx _ | .addIVx _ | .ldFVx _ | .ldBVx _ | .ldMemVx _ | .ldVxMem _ | .nopf _ _ => false

/-! Runs of events. -/

/-- Issue events one after another, stopping at the first that does not answer a next state. -/
def issueAll : List Event → State → Result
  | [], s => .next s
  | e :: es, s =>
    match issue e s with
    | .next t => issueAll es t
    | .fault r => .fault r
    | .refused r => .refused r

/-- The events that cannot end a key wait: no Reset and no KeySample (60_exceptions.md R116). -/
def Event.keepsWait : Event → Bool
  | .step _ => true
  | .tick => true
  | .tickBatch _ => true
  | .readout => true
  | .reset _ => false
  | .keySample _ => false

/-- The event that the next step performs; none for a Step that no Step(rnd) issues (log 1). -/
def State.upcoming (s : State) : Option Event := (s.takeEvent Config.freeEvent).1

/-- The machine with a given infinite interleaving in the place of the free one. -/
def coreUnder (seq : Nat → Event) : Host.Core where
  State := State
  Fault := Fault
  Refusal := Refusal
  step := stepUnder seq
  reset := State.reset

/-! Sprites. -/

/-- Pixel (row, col) lies under a set pixel of the n-row sprite at I drawn at column vx, row vy (43_display.md R89). -/
def spriteCovers (s : State) (vx vy : Byte) (n : Nat) (row : Fin 32) (col : Fin 64) : Prop :=
  ∃ r b : Nat, r < n ∧ b < 8 ∧ (vy.toNat + r) % 32 = row.val ∧ (vx.toNat + b) % 64 = col.val ∧
    (s.memRead (s.i.toNat + r)).getLsbD (7 - b) = true

/-! States that a program cannot tell apart. -/

/-- Equal but for bits 15..12 of I (10_state.md R14). -/
def SameButHighI (s t : State) : Prop :=
  s.i.toNat % 4096 = t.i.toNat % 4096 ∧ s = { t with i := s.i }

/-- Equal but for ST (10_state.md R19). -/
def SameButSt (s t : State) : Prop := s = { t with st := s.st }

/-- Equal but for the stack entries above SP (10_state.md R17). -/
def SameButStaleStack (s t : State) : Prop :=
  (∀ j : StackIndex, (j.val : Int) ≤ spValue s.sp → s.getStack j = t.getStack j) ∧ s = { t with stack := s.stack }

/-- Two results of steps that both go on, in related states, or stop alike. -/
def RelatedResults (rel : State → State → Prop) (r q : Result) : Prop :=
  match r, q with
  | .next s, .next t => rel s t
  | .fault _, .fault _ => True
  | .refused a, .refused b => a = b
  | _, _ => False

end Sys2Proof.Machine
end

