-- ==== Sys2Proof/Certificates/Slice0/Obligations.lean ====
section
/-!
DEFINITION. The statements about the model, in the order of OBLIGATIONS.json. "s" is a state whose PC the fetch has
already advanced wherever a statement is about exec (30_encoding.md R53). A statement that cites an instruction's rule
also says which words are that instruction, by the format of 30_encoding.md R44 (encNnn, encXKk, encXYN).
-/

open Sys2Proof Sys2Proof.Machine

/-! Encoding. -/

/-- Words written out bit by bit from the patterns of 30_encoding.md R46 and R49, one or more of each format and of each
family with a sub-dispatch; families 4, 6, 7, 9, A and C are not among them. That 01E0 is a jump and no clear is the
spec's decision D7. -/
def Obligations.WordsWrittenOutDecode : Prop :=
  decode 0b0000000011100000 = .cls ∧ decode 0b0000000011101110 = .ret ∧
  decode 0b0000000111100000 = .sys 0x1E0 ∧ decode 0b0001001000110100 = .jp 0x234 ∧
  decode 0b0010101010111100 = .call 0xABC ∧ decode 0b0011010110100111 = .seVxKk 5 0xA7 ∧
  decode 0b0101101010110000 = .seVxVy 0xA 0xB 0 ∧ decode 0b1000101001110110 = .shrVx 0xA 7 ∧
  decode 0b1000000100101000 = .nop8 1 2 8 ∧ decode 0b1011001100000000 = .jpV0 0x300 ∧
  decode 0b1101000100100011 = .drw 1 2 3 ∧ decode 0b1110010110011110 = .skp 5 ∧
  decode 0b1111001001100101 = .ldVxMem 2 ∧ decode 0b1111001011111111 = .nopf 2 0xFF

/-- Every well-formed instruction is what its word decodes to: no operand bit is dropped. -/
def Obligations.DecodeOfEncodeIsTheInstruction : Prop :=
  ∀ i : Instr, i.wellFormed = true → decode (encode i) = i

/-- Every one of the 65536 words decodes to a well-formed instruction (30_encoding.md R50) whose word it is. That no bit
of a word is lost is the model's choice: ignored bits are kept as operands (log 10). -/
def Obligations.EncodeOfDecodeIsTheWord : Prop :=
  ∀ op : Word, (decode op).wellFormed = true ∧ encode (decode op) = op

/-- The decoder picks the first row of the opcode table that the word matches (30_encoding.md R47). -/
def Obligations.DecoderPicksTheFirstMatchingRow : Prop :=
  ∀ op : Word, (firstRow op).map OpcodeRow.mnemonic = some (decode op).mnemonic

/-! The Step event and the agenda. -/

/-- A running machine executes the instruction that the two bytes at PC spell, big-endian, each address masked, on the
state whose PC is advanced by 2 (30_encoding.md R53, 20_memory.md R30; the wrap of PC is decision D3). That a machine without an event in hand steps by a Step is the model's choice (log 1). -/
def Obligations.StepRunsTheDecodedInstruction : Prop :=
  ∀ (s : State) (hi8 lo8 : Byte), s.running →
    Memory.read s.mem (s.pc.toNat % 4096) = hi8 → Memory.read s.mem ((s.pc.toNat + 1) % 4096) = lo8 →
    step s = exec (decode (hi8 ++ lo8)) { s with pc := s.pc + 2 }

/-- A Step(rnd) that the environment has lined up executes one instruction with `rnd` driven during it and then
leaves the port as it was. The agenda is the model's own (log 1), and so is the port (log 2). -/
def Obligations.IssuedStepRunsWithItsRandomByte : Prop :=
  ∀ (s : State) (rnd : Byte) (rest : List Event),
    s.agenda = .step rnd :: rest → s.fault = .none → s.wait.active = false →
    ∃ t, exec (decode s.fetchWord) { s with agenda := rest, rndPort := some rnd, pc := s.pc + 2 } = .next t ∧
      step s = .next { t with rndPort := s.rndPort }

/-- While a fault is latched or a key wait holds, any number of Steps changes nothing (30_encoding.md R53, decision
D22; log 1, log 11). -/
def Obligations.HeldMachineKeepsItsState : Prop :=
  (∀ (k : Nat) (s : State), s.agenda = [] → s.env = .steps → (s.fault ≠ .none ∨ s.wait.active = true) →
    Host.Core.run Sys2Proof.core k s = .next s) ∧
  ∀ (s : State) (rnd : Byte) (rest : List Event),
    s.agenda = .step rnd :: rest → (s.fault ≠ .none ∨ s.wait.active = true) →
    step s = .next { s with agenda := rest }

/-- The steps that a machine takes through its agenda are exactly the events issued one after another: the agenda
neither influences the block nor is influenced by it (log 1; 00_scope.md R6). -/
def Obligations.AgendaRunIsTheEventSequence : Prop :=
  ∀ (es : List Event) (s : State), s.agenda = [] →
    Host.Core.run Sys2Proof.core es.length { s with agenda := es } = issueAll es s

/-- Under any infinite interleaving of events, the first k steps of a machine with a free environment are its events
issued one after another, and the machine of this model is that machine under its free interleaving (00_scope.md R6;
the environment is log 1). -/
def Obligations.EveryInfiniteInterleavingIsARun : Prop :=
  Sys2Proof.core = coreUnder Config.freeEvent ∧
  ∀ (seq : Nat → Event) (k n : Nat) (s : State), s.agenda = [] → s.env = .free n →
    (∀ t, issueAll ((List.range' n k).map seq) s = .next t →
      Host.Core.run (coreUnder seq) k s = .next { t with env := .free (n + k) }) ∧
    ∀ r, issueAll ((List.range' n k).map seq) s = .refused r → Host.Core.run (coreUnder seq) k s = .refused r

/-! Reset. -/

/-- The state after Reset with an empty rom: every piece at the value of 10_state.md R26. All but PC, SP and the place
of the font rest on the spec's decisions D12, D16, D17, D18 (log 4, log 7). -/
def Obligations.ResetStateHoldsTheSpecifiedValues : Prop :=
  (∀ r, State.reset.getV r = 0) ∧ State.reset.i = 0 ∧ State.reset.pc = 0x200 ∧ spValue State.reset.sp = -1 ∧
  (∀ j, State.reset.getStack j = 0) ∧ State.reset.dt = 0 ∧ State.reset.st = 0 ∧
  (∀ k, State.reset.getKey k = false) ∧ State.reset.wait.active = false ∧ State.reset.wait.target = 0 ∧
  State.reset.fault.code = 0 ∧ (∀ row col, State.reset.getPixel row col = false) ∧
  ∀ a, a < 4096 → State.reset.memRead a = if a < 80 then font.getD a 0 else 0

/-- The Reset event discards all state of the block, waiting or faulted, and loads the font and the rom over zero
(70_reset_and_hazards.md R125; decisions D12, D16, D17); it does so for any font of 80 bytes (D18). -/
def Obligations.ResetEventBuildsTheInitialState : Prop :=
  (∀ (s : State) (rom : List Byte), rom.length ≤ 3584 → issue (.reset rom) s = .next (s.boot font rom)) ∧
  ∀ (s : State) (glyphs rom : List Byte), glyphs.length = 80 → rom.length ≤ 3584 →
    (∀ r, (s.boot glyphs rom).getV r = 0) ∧ (s.boot glyphs rom).i = 0 ∧ (s.boot glyphs rom).pc = 0x200 ∧
    spValue (s.boot glyphs rom).sp = -1 ∧ (∀ j, (s.boot glyphs rom).getStack j = 0) ∧
    (s.boot glyphs rom).dt = 0 ∧ (s.boot glyphs rom).st = 0 ∧ (∀ k, (s.boot glyphs rom).getKey k = false) ∧
    (s.boot glyphs rom).wait.active = false ∧ (s.boot glyphs rom).fault.code = 0 ∧
    (∀ row col, (s.boot glyphs rom).getPixel row col = false) ∧
    ∀ a, a < 4096 → (s.boot glyphs rom).memRead a =
      if 0x200 ≤ a ∧ a < 0x200 + rom.length then rom.getD (a - 0x200) 0
      else if a < 80 then glyphs.getD a 0 else 0

/-- A rom longer than the program area is refused (70_reset_and_hazards.md R126, decision D19). -/
def Obligations.OverlongRomIsRefused : Prop :=
  ∀ (s : State) (rom : List Byte) (rest : List Event), 3584 < rom.length → s.agenda = .reset rom :: rest →
    step s = .refused (.romTooLong rom.length)

/-! Invariants. -/

/-- The invariant holds right after reset. The canonical form is the model's choice (log 3), and the values of memory,
WAIT and FAULT at reset are the spec's decisions D12, D16 and D17 (log 7). -/
def Obligations.InvariantHoldsAtReset : Prop := State.reset.inv

/-- Every step keeps the invariant: that a fault and a key wait are never both on (10_state.md R27 item 4), and the
memory's canonical form, which is the model's own representation (log 3). -/
def Obligations.EveryStepKeepsTheInvariant : Prop :=
  ∀ s t : State, s.inv → step s = .next t → t.inv

/-- Two memories in canonical form, the model's own representation (log 3), that read alike at every address are the
same data. -/
def Obligations.CanonicalMemoryIsDeterminedByItsBytes : Prop :=
  ∀ m m' : Memory, m.wf → m'.wf → (∀ a, a < 4096 → m.readByte a = m'.readByte a) → m = m'

/-! Loads, arithmetic, logic, shifts, random (41_alu.md). -/

/-- 6xkk, 8xy0, 8xy1, 8xy2, 8xy3: the result in V[x] and nothing else, VF included unless it is V[x] (R67, R69 to R72). -/
def Obligations.LoadsAndLogicWriteOnlyTheirRegister : Prop :=
  ∀ (s : State) (x y : Reg) (kk : Byte),
    decode (encXKk 0x6 x kk) = .ldVxKk x kk ∧ decode (encXYN 0x8 x y 0x0) = .ldVxVy x y ∧
    decode (encXYN 0x8 x y 0x1) = .orVxVy x y ∧ decode (encXYN 0x8 x y 0x2) = .andVxVy x y ∧
    decode (encXYN 0x8 x y 0x3) = .xorVxVy x y ∧
    (∃ t, exec (.ldVxKk x kk) s = .next t ∧ t.getV x = kk ∧ UnchangedBut [x] [] s t) ∧
    (∃ t, exec (.ldVxVy x y) s = .next t ∧ t.getV x = s.getV y ∧ UnchangedBut [x] [] s t) ∧
    (∃ t, exec (.orVxVy x y) s = .next t ∧ t.getV x = s.getV x ||| s.getV y ∧ UnchangedBut [x] [] s t) ∧
    (∃ t, exec (.andVxVy x y) s = .next t ∧ t.getV x = s.getV x &&& s.getV y ∧ UnchangedBut [x] [] s t) ∧
    (∃ t, exec (.xorVxVy x y) s = .next t ∧ t.getV x = s.getV x ^^^ s.getV y ∧ UnchangedBut [x] [] s t)

/-- 7xkk: the sum modulo 256 and no flag (R68). -/
def Obligations.AddImmediateWrapsWithoutFlag : Prop :=
  ∀ (s : State) (x : Reg) (kk : Byte), decode (encXKk 0x7 x kk) = .addVxKk x kk ∧
    ∃ t, exec (.addVxKk x kk) s = .next t ∧
      (t.getV x).toNat = ((s.getV x).toNat + kk.toNat) % 256 ∧ UnchangedBut [x] [] s t

/-- 8xy4: the sum modulo 256 in V[x], the carry in VF (R73); that the result wins with x = F is the spec's decision
D5. -/
def Obligations.AddReportsTheCarry : Prop :=
  ∀ (s : State) (x y : Reg), decode (encXYN 0x8 x y 0x4) = .addVxVy x y ∧
    ∃ t, exec (.addVxVy x y) s = .next t ∧
      (t.getV x).toNat = ((s.getV x).toNat + (s.getV y).toNat) % 256 ∧
      (x ≠ regVF → t.getV regVF = if (s.getV x).toNat + (s.getV y).toNat > 255 then 1 else 0) ∧
      UnchangedBut [x, regVF] [] s t

/-- 8xy5 and 8xy7: the difference modulo 256 in V[x], NOT borrow in VF, 1 on equality (R74, R76); that the result wins
with x = F is the spec's decision D5. -/
def Obligations.SubtractReportsNotBorrow : Prop :=
  ∀ (s : State) (x y : Reg),
    decode (encXYN 0x8 x y 0x5) = .subVxVy x y ∧ decode (encXYN 0x8 x y 0x7) = .subnVxVy x y ∧
    (∃ t, exec (.subVxVy x y) s = .next t ∧
      ((t.getV x).toNat : Int) = (((s.getV x).toNat : Int) - ((s.getV y).toNat : Int)) % 256 ∧
      (x ≠ regVF → t.getV regVF = if (s.getV x).toNat ≥ (s.getV y).toNat then 1 else 0) ∧
      UnchangedBut [x, regVF] [] s t) ∧
    (∃ t, exec (.subnVxVy x y) s = .next t ∧
      ((t.getV x).toNat : Int) = (((s.getV y).toNat : Int) - ((s.getV x).toNat : Int)) % 256 ∧
      (x ≠ regVF → t.getV regVF = if (s.getV y).toNat ≥ (s.getV x).toNat then 1 else 0) ∧
      UnchangedBut [x, regVF] [] s t)

/-- 8xy6 for every y: V[x] halved, the bit shifted out in VF (R75); that VF ends 0 with x = F is the spec's decision
D5. -/
def Obligations.ShiftRightReportsTheLostBit : Prop :=
  ∀ (s : State) (x y : Reg), decode (encXYN 0x8 x y 0x6) = .shrVx x y ∧
    ∃ t, exec (.shrVx x y) s = .next t ∧
      (x ≠ regVF → (t.getV x).toNat = (s.getV x).toNat / 2 ∧ (t.getV regVF).toNat = (s.getV x).toNat % 2) ∧
      (x = regVF → t.getV regVF = 0) ∧ UnchangedBut [x, regVF] [] s t

/-- 8xyE for every y and both values of SHL_VF_RAW: V[x] doubled in 8 bits, bit 7 in VF as 0x80 or as 1; with x = F
the shift acts on the flag just written (decision D5). This hardware has SHL_VF_RAW = true (R77, decision D6; log 5). -/
def Obligations.ShiftLeftReportsBitSeven : Prop :=
  ∀ (s : State) (x y : Reg),
    exec (.shlVx x y) s = .next (shiftLeft true x s) ∧
    ∀ raw : Bool,
      (x ≠ regVF →
        ((shiftLeft raw x s).getV x).toNat = 2 * (s.getV x).toNat % 256 ∧
        (shiftLeft raw x s).getV regVF =
          if (s.getV x).toNat < 128 then 0 else if raw = true then 0x80 else 1) ∧
      (x = regVF →
        (shiftLeft raw x s).getV regVF = if raw = true then 0 else if (s.getV x).toNat < 128 then 0 else 2) ∧
      UnchangedBut [x, regVF] [] s (shiftLeft raw x s)

/-- Cxkk: the byte sampled in this Step masked by kk: the byte that the environment drives, or a free byte when it
drives none (R78, R9; the port, the counter and the free value are the model's, log 2). -/
def Obligations.RandomByteIsMasked : Prop :=
  ∀ (s : State) (x : Reg) (kk : Byte),
    ∃ t, exec (.rnd x kk) s = .next t ∧
      (∀ b, s.rndPort = some b → t.getV x = b &&& kk) ∧
      (s.rndPort = none → t.getV x = Config.freeRnd s.draws &&& kk) ∧
      t.draws = s.draws + 1 ∧ UnchangedBut [x] [.draws] s t

/-- The reserved words of families 8, E and F (R79, R99, R100): no effect but the fetch's advance of PC. -/
def Obligations.ReservedWordsOnlyAdvancePc : Prop :=
  (∀ (s : State) (x y : Reg) (n : Nibble) (kk : Byte),
    (∃ t, exec (.nop8 x y n) s = .next t ∧ UnchangedBut [] [] s t) ∧
    (∃ t, exec (.nope x kk) s = .next t ∧ UnchangedBut [] [] s t) ∧
    (∃ t, exec (.nopf x kk) s = .next t ∧ UnchangedBut [] [] s t)) ∧
  ∀ s : State, s.running →
    ((s.fetchWord.toNat / 4096 = 8 ∧ s.fetchWord.toNat % 16 ∈ [8, 9, 10, 11, 12, 13, 15]) ∨
      (s.fetchWord.toNat / 4096 = 14 ∧ s.fetchWord.toNat % 256 ∉ [0x9E, 0xA1]) ∨
      (s.fetchWord.toNat / 4096 = 15 ∧
        s.fetchWord.toNat % 256 ∉ [0x07, 0x0A, 0x15, 0x18, 0x1E, 0x29, 0x33, 0x55, 0x65])) →
    step s = .next { s with pc := s.pc + 2 }

/-! Control transfer (40_control.md). -/

/-- 0nnn (other) and Bnnn: the target, unmasked, and nothing else; nothing is pushed (R56, R63; the match of 00E0 and
00EE on all 16 bits is the spec's decision D7). -/
def Obligations.PlainAndIndexedJumpsSetPc : Prop :=
  ∀ (s : State) (nnn : Addr12),
    (nnn ≠ 0x0E0 → nnn ≠ 0x0EE → decode (encNnn 0x0 nnn) = .sys nnn) ∧ decode (encNnn 0xB nnn) = .jpV0 nnn ∧
    (∃ t, exec (.sys nnn) s = .next t ∧ t.pc.toNat = nnn.toNat ∧ UnchangedBut [] [.pc] s t) ∧
    (∃ t, exec (.jpV0 nnn) s = .next t ∧ t.pc.toNat = nnn.toNat + (s.getV 0).toNat ∧ UnchangedBut [] [.pc] s t)

/-- 1nnn: the target and nothing else; stored at its own address it changes no state (R57). -/
def Obligations.JumpSetsPcAndJumpToSelfIsAFixedPoint : Prop :=
  (∀ (s : State) (nnn : Addr12), decode (encNnn 0x1 nnn) = .jp nnn ∧
    ∃ t, exec (.jp nnn) s = .next t ∧ t.pc.toNat = nnn.toNat ∧ UnchangedBut [] [.pc] s t) ∧
  ∀ s : State, s.running → s.pc.toNat < 4096 → s.fetchWord.toNat = 0x1000 + s.pc.toNat → step s = .next s

/-- 2nnn: with room, SP goes up, the advanced PC is stored there and PC is nnn; with SP = 15, fault 2 and nothing else
(R58, R105; decisions D10 and D12; log 11). -/
def Obligations.CallPushesOrOverflows : Prop :=
  ∀ (s : State) (nnn : Addr12),
    (spValue s.sp < 15 →
      ∃ t, ∃ j : StackIndex, exec (.call nnn) s = .next t ∧ t.sp = some j ∧ (j.val : Int) = spValue s.sp + 1 ∧
        t.getStack j = s.pc ∧ (∀ k, k ≠ j → t.getStack k = s.getStack k) ∧ t.pc.toNat = nnn.toNat ∧
        UnchangedBut [] [.pc, .sp, .stack] s t) ∧
    (spValue s.sp = 15 →
      ∃ t, exec (.call nnn) s = .next t ∧ t.fault = .stackOverflow ∧ UnchangedBut [] [.fault] s t)

/-- 00EE: PC is the entry at SP, whole and not cleared, and SP goes down; with SP = -1, fault 1 and nothing else
(R55, R104; decisions D9 and D12; log 11). -/
def Obligations.ReturnPopsOrUnderflows : Prop :=
  ∀ s : State,
    (∀ j : StackIndex, s.sp = some j →
      ∃ t, exec .ret s = .next t ∧ t.pc = s.getStack j ∧ spValue t.sp = (j.val : Int) - 1 ∧
        UnchangedBut [] [.pc, .sp] s t) ∧
    (spValue s.sp = -1 →
      ∃ t, exec .ret s = .next t ∧ t.fault = .stackUnderflow ∧ UnchangedBut [] [.fault] s t)

/-- A return from any state whose stack is as the call left it brings back the caller's PC and SP. -/
def Obligations.ReturnUndoesCall : Prop :=
  ∀ (s t u : State) (nnn : Addr12), spValue s.sp < 15 → exec (.call nnn) s = .next t →
    u.sp = t.sp → (∀ j, u.getStack j = t.getStack j) →
    ∃ r, exec .ret u = .next r ∧ r.pc = s.pc ∧ r.sp = s.sp

/-- 3xkk and 4xkk: PC goes up by 2 more, modulo 65536, exactly when the condition holds (R59, R60). -/
def Obligations.ImmediateSkipsTestTheirCondition : Prop :=
  ∀ (s : State) (x : Reg) (kk : Byte),
    decode (encXKk 0x3 x kk) = .seVxKk x kk ∧ decode (encXKk 0x4 x kk) = .sneVxKk x kk ∧
    (∃ t, exec (.seVxKk x kk) s = .next t ∧ UnchangedBut [] [.pc] s t ∧
      t.pc.toNat = if s.getV x = kk then (s.pc.toNat + 2) % 65536 else s.pc.toNat) ∧
    (∃ t, exec (.sneVxKk x kk) s = .next t ∧ UnchangedBut [] [.pc] s t ∧
      t.pc.toNat = if s.getV x ≠ kk then (s.pc.toNat + 2) % 65536 else s.pc.toNat)

/-- 5xyN and 9xyN: PC goes up by 2 more, modulo 65536, exactly when the registers are equal, or differ (R61, R62); for
every N, which is the spec's decision D8. -/
def Obligations.RegisterSkipsTestTheirCondition : Prop :=
  ∀ (s : State) (x y : Reg) (n : Nibble),
    decode (encXYN 0x5 x y n) = .seVxVy x y n ∧ decode (encXYN 0x9 x y n) = .sneVxVy x y n ∧
    (∃ t, exec (.seVxVy x y n) s = .next t ∧ UnchangedBut [] [.pc] s t ∧
      t.pc.toNat = if s.getV x = s.getV y then (s.pc.toNat + 2) % 65536 else s.pc.toNat) ∧
    (∃ t, exec (.sneVxVy x y n) s = .next t ∧ UnchangedBut [] [.pc] s t ∧
      t.pc.toNat = if s.getV x ≠ s.getV y then (s.pc.toNat + 2) % 65536 else s.pc.toNat)

/-- Ex9E and ExA1: with V[x] a key code, a skip on the key's level; above 15, fault 3 and no skip (44_timers_keys.md
R93, R94, R106; decisions D11 and D12; log 11). -/
def Obligations.KeySkipsTestTheLevelOrFault : Prop :=
  ∀ (s : State) (x : Reg),
    (∀ k : KeyCode, (s.getV x).toNat = k.val →
      (∃ t, exec (.skp x) s = .next t ∧ UnchangedBut [] [.pc] s t ∧
        t.pc.toNat = if s.getKey k = true then (s.pc.toNat + 2) % 65536 else s.pc.toNat) ∧
      (∃ t, exec (.sknp x) s = .next t ∧ UnchangedBut [] [.pc] s t ∧
        t.pc.toNat = if s.getKey k = false then (s.pc.toNat + 2) % 65536 else s.pc.toNat)) ∧
    ((s.getV x).toNat > 15 →
      (∃ t, exec (.skp x) s = .next t ∧ t.fault = .keyIndexOutOfRange ∧ UnchangedBut [] [.fault] s t) ∧
      (∃ t, exec (.sknp x) s = .next t ∧ t.fault = .keyIndexOutOfRange ∧ UnchangedBut [] [.fault] s t))

/-! Faults (60_exceptions.md). -/

/-- A faulting Step changes PC to A + 2 and the latch, nothing else, and every later Step changes nothing (R107, R109;
decisions D9 to D12 and D22; log 1, log 11). -/
def Obligations.FaultingStepIsPreciseAndFinal : Prop :=
  ∀ (s : State) (k : Nat), s.running →
    (decode s.fetchWord = .ret → spValue s.sp = -1 →
      Host.Core.run Sys2Proof.core (k + 1) s = .next { s with pc := s.pc + 2, fault := .stackUnderflow }) ∧
    (∀ nnn, decode s.fetchWord = .call nnn → spValue s.sp = 15 →
      Host.Core.run Sys2Proof.core (k + 1) s = .next { s with pc := s.pc + 2, fault := .stackOverflow }) ∧
    (∀ x, decode s.fetchWord = .skp x ∨ decode s.fetchWord = .sknp x → (s.getV x).toNat > 15 →
      Host.Core.run Sys2Proof.core (k + 1) s = .next { s with pc := s.pc + 2, fault := .keyIndexOutOfRange })

/-- An instruction that latches a fault is one of the four, on its condition, with its code: there is no other fault
(R103, R110; decisions D9 to D12; log 11). -/
def Obligations.OnlyThreeConditionsFault : Prop :=
  ∀ (i : Instr) (s t : State), s.fault = .none → exec i s = .next t → t.fault ≠ .none →
    (i = .ret ∧ spValue s.sp = -1 ∧ t.fault.code = 1) ∨
    ((∃ nnn, i = .call nnn) ∧ spValue s.sp = 15 ∧ t.fault.code = 2) ∨
    ((∃ x, (i = .skp x ∨ i = .sknp x) ∧ (s.getV x).toNat > 15) ∧ t.fault.code = 3)

/-- Once latched, a fault keeps its code through every event but Reset (R109, 10_state.md R22; decision D12;
which event is upcoming is log 1). -/
def Obligations.FaultStaysUntilReset : Prop :=
  ∀ s t : State, s.fault ≠ .none → step s = .next t → (∀ rom, s.upcoming ≠ some (.reset rom)) →
    t.fault = s.fault

/-! Timers, keys and the key wait (44_timers_keys.md, 60_exceptions.md). -/

/-- Fx07, Fx15, Fx18 (R95, R97, R98). -/
def Obligations.TimerInstructionsCopyOneByte : Prop :=
  ∀ (s : State) (x : Reg),
    decode (encXKk 0xF x 0x07) = .ldVxDt x ∧ decode (encXKk 0xF x 0x15) = .ldDtVx x ∧
    decode (encXKk 0xF x 0x18) = .ldStVx x ∧
    (∃ t, exec (.ldVxDt x) s = .next t ∧ t.getV x = s.dt ∧ UnchangedBut [x] [] s t) ∧
    (∃ t, exec (.ldDtVx x) s = .next t ∧ t.dt = s.getV x ∧ UnchangedBut [] [.dt] s t) ∧
    (∃ t, exec (.ldStVx x) s = .next t ∧ t.st = s.getV x ∧ UnchangedBut [] [.st] s t)

/-- A Tick takes one from each timer and stops at 0, in every hold, and changes nothing else; its sound output is 1
exactly when it finds ST > 0 (R112, R114; decision D23; the agenda is log 1). -/
def Obligations.TickCountsBothTimersDown : Prop :=
  ∀ (s : State) (rest : List Event), s.agenda = .tick :: rest →
    ∃ t, step s = .next t ∧ t.dt.toNat = s.dt.toNat - 1 ∧ t.st.toNat = s.st.toNat - 1 ∧ t.agenda = rest ∧
      UnchangedBut [] [.dt, .st, .agenda] s t ∧
      output .tick s = .soundDecrement (if s.st.toNat > 0 then 1 else 0)

/-- Tick(k) is k Ticks in a row: each timer loses min(k, its value), and so many decrements reach the sound output
(R113). -/
def Obligations.BatchedTickIsThatManyTicks : Prop :=
  ∀ (s : State) (k : Nat),
    issue (.tickBatch k) s = issueAll (List.replicate k .tick) s ∧
    output (.tickBatch k) s = .soundDecrement (min k s.st.toNat) ∧
    ∃ t, issue (.tickBatch k) s = .next t ∧ t.dt.toNat = s.dt.toNat - min k s.dt.toNat ∧
      t.st.toNat = s.st.toNat - min k s.st.toNat ∧ UnchangedBut [] [.dt, .st] s t

/-- Fx0A sets the latch for register x and writes nothing else, V[x] included; from then on Steps, Ticks and Readouts
in any number and order leave the wait, PC and every register as they are (R96, R116). -/
def Obligations.KeyWaitHoldsTheMachine : Prop :=
  (∀ (s : State) (x : Reg),
    ∃ t, exec (.ldVxK x) s = .next t ∧ t.wait.active = true ∧ t.wait.target = x ∧ UnchangedBut [] [.wait] s t) ∧
  ∀ (es : List Event) (s : State), s.wait.active = true → (∀ e ∈ es, e.keepsWait = true) →
    ∃ t, issueAll es s = .next t ∧ UnchangedBut [] [.dt, .st] s t

/-- KeySample replaces all levels; without a wait or without a rising edge nothing else changes; with both, the
largest code that goes down is written to the target register and the wait is over (R115, R117; decisions D14, D15,
log 6; the agenda is log 1). -/
def Obligations.KeySampleEndsAWaitOnARisingEdge : Prop :=
  ∀ (s : State) (new : Vector Bool 16) (rest : List Event), s.agenda = .keySample new :: rest →
    ∃ t, step s = .next t ∧ t.agenda = rest ∧ (∀ k, t.getKey k = new[k]) ∧
      ((s.wait.active = false ∨ ∀ k, s.getKey k = true ∨ new[k] = false) →
        UnchangedBut [] [.keys, .agenda] s t) ∧
      (s.wait.active = true → ∀ k, s.getKey k = false → new[k] = true →
        (∀ j, s.getKey j = false → new[j] = true → j ≤ k) →
        (t.getV s.wait.target).toNat = k.val ∧ t.wait.active = false ∧
          UnchangedBut [s.wait.target] [.keys, .wait, .agenda] s t)

/-- For any tie-break that answers a member of a non-empty set, the register gets the code of a key that goes down
(R117: the choice may be left open; decision D14). -/
def Obligations.AnyTiebreakDeliversAFallenKey : Prop :=
  ∀ (tiebreak : List KeyCode → Option KeyCode) (s : State) (new : Vector Bool 16),
    (∀ edges, edges ≠ [] → ∃ k, tiebreak edges = some k ∧ k ∈ edges) →
    s.wait.active = true → (∃ k : KeyCode, s.getKey k = false ∧ new[k] = true) →
    ∃ k : KeyCode, s.getKey k = false ∧ new[k] = true ∧
      ((keySampleWith tiebreak new s).getV s.wait.target).toNat = k.val ∧
      (keySampleWith tiebreak new s).wait.active = false

/-- The wait is entered only by executing Fx0A with that register, and left only by a KeySample with a rising edge or
by Reset (R116, 10_state.md R21). -/
def Obligations.KeyWaitIsEnteredAndLeftOnlyAsSpecified : Prop :=
  (∀ s t : State, s.wait.active = false → step s = .next t → t.wait.active = true →
    decode s.fetchWord = .ldVxK t.wait.target ∧ s.fault = .none ∧
      (s.upcoming = none ∨ ∃ rnd, s.upcoming = some (.step rnd))) ∧
  ∀ s t : State, s.wait.active = true → step s = .next t → t.wait.active = false →
    (∃ rom, s.upcoming = some (.reset rom)) ∨
    ∃ new, s.upcoming = some (.keySample new) ∧ ∃ k : KeyCode, s.getKey k = false ∧ new[k] = true

/-! Index register and memory (42_index_memory.md). -/

/-- Annn and Fx29: I is nnn, or 5 times V[x] with no reduction (R80, R82). -/
def Obligations.IndexIsLoadedFromImmediateOrGlyph : Prop :=
  ∀ (s : State) (nnn : Addr12) (x : Reg),
    decode (encNnn 0xA nnn) = .ldINnn nnn ∧ decode (encXKk 0xF x 0x29) = .ldFVx x ∧
    (∃ t, exec (.ldINnn nnn) s = .next t ∧ t.i.toNat = nnn.toNat ∧ UnchangedBut [] [.i] s t) ∧
    (∃ t, exec (.ldFVx x) s = .next t ∧ t.i.toNat = (s.getV x).toNat * 5 ∧ UnchangedBut [] [.i] s t)

/-- Fx1E: I is the sum of its low 12 bits and V[x], unmasked; VF says whether the sum is above 0xFFF (R81), also with
x = F, by the order of the writes that is the spec's decision D5. -/
def Obligations.AddToIndexReportsOverflow : Prop :=
  ∀ (s : State) (x : Reg), decode (encXKk 0xF x 0x1E) = .addIVx x ∧
    ∃ t, exec (.addIVx x) s = .next t ∧ t.i.toNat = s.i.toNat % 4096 + (s.getV x).toNat ∧
      t.getV regVF = (if s.i.toNat % 4096 + (s.getV x).toNat > 0xFFF then 1 else 0) ∧
      UnchangedBut [regVF] [.i] s t

/-- Fx33: hundreds, tens and ones at I, I+1, I+2, each address masked; no other byte and nothing else changes, I
included (R83). -/
def Obligations.DecimalDigitsAreStoredAtIndex : Prop :=
  ∀ (s : State) (x : Reg), decode (encXKk 0xF x 0x33) = .ldBVx x ∧
    ∃ t, exec (.ldBVx x) s = .next t ∧
      (t.memRead (effAddr s.i 0)).toNat = (s.getV x).toNat / 100 ∧
      (t.memRead (effAddr s.i 1)).toNat = (s.getV x).toNat / 10 % 10 ∧
      (t.memRead (effAddr s.i 2)).toNat = (s.getV x).toNat % 10 ∧
      (∀ a, (∀ k, k < 3 → a % 4096 ≠ effAddr s.i k) → t.memRead a = s.memRead a) ∧
      UnchangedBut [] [.mem] s t

/-- Fx55: V0..Vx at I onward, each address masked, no other byte, and I goes up by x + 1 (R84), modulo 65536 by the
spec's decision D3. -/
def Obligations.StoreGroupWritesTheBlockAndAdvancesIndex : Prop :=
  ∀ (s : State) (x : Reg), decode (encXKk 0xF x 0x55) = .ldMemVx x ∧
    ∃ t, exec (.ldMemVx x) s = .next t ∧
      (∀ r : Reg, r ≤ x → t.memRead (effAddr s.i r.val) = s.getV r) ∧
      (∀ a, (∀ r : Reg, r ≤ x → a % 4096 ≠ effAddr s.i r.val) → t.memRead a = s.memRead a) ∧
      t.i.toNat = (s.i.toNat + x.val + 1) % 65536 ∧ UnchangedBut [] [.mem, .i] s t

/-- Fx65: V0..Vx from I onward, each address masked, the registers above x as before, and I goes up by x + 1 (R85),
modulo 65536 by the spec's decision D3. -/
def Obligations.LoadGroupReadsTheBlockAndAdvancesIndex : Prop :=
  ∀ (s : State) (x : Reg), decode (encXKk 0xF x 0x65) = .ldVxMem x ∧
    ∃ t, exec (.ldVxMem x) s = .next t ∧
      (∀ r : Reg, r ≤ x → t.getV r = s.memRead (effAddr s.i r.val)) ∧
      (∀ r : Reg, x < r → t.getV r = s.getV r) ∧
      t.i.toNat = (s.i.toNat + x.val + 1) % 65536 ∧ UnchangedBut (regsUpTo x) [.i] s t

/-- The round trip of 95_test_vectors.md S10: stored, overwritten in any way, I set back, and loaded again, the
registers are what they were, and I ends at the same place both times. -/
def Obligations.StoreThenLoadReproducesTheRegisters : Prop :=
  ∀ (s t : State) (x : Reg) (w : Vector Byte 16), exec (.ldMemVx x) s = .next t →
    ∃ u, exec (.ldVxMem x) { t with v := w, i := s.i } = .next u ∧
      (∀ r : Reg, r ≤ x → u.getV r = s.getV r) ∧ u.i = t.i ∧ u.i.toNat = (s.i.toNat + x.val + 1) % 65536

/-- A word that Fx55 stores right behind itself is the one that the very next Step executes (20_memory.md R40,
decision D4). -/
def Obligations.StoredWordIsExecutedNext : Prop :=
  ∀ (s : State) (x : Reg), s.running → decode s.fetchWord = .ldMemVx x → 1 ≤ x.val →
    s.i.toNat % 4096 = (s.pc.toNat + 2) % 4096 →
    ∃ t, step s = .next t ∧ step t = exec (decode (s.getV 0 ++ s.getV 1)) { t with pc := s.pc + 4 }

/-! Display (43_display.md). -/

/-- 00E0: every pixel 0 and nothing else, VF included (R88). -/
def Obligations.ClearBlanksTheDisplay : Prop :=
  ∀ s : State, decode 0x00E0 = .cls ∧
    ∃ t, exec .cls s = .next t ∧ (∀ row col, t.getPixel row col = false) ∧ UnchangedBut [] [.pix] s t

/-- Dxyn: exactly the pixels under the sprite's set bits are inverted, with both coordinates wrapped; VF is 1 if one
of them was lit, else 0; nothing else changes, I and memory included (R89; that the coordinates are read before VF is
written is the spec's decision D21). -/
def Obligations.DrawInvertsTheCoveredPixels : Prop :=
  ∀ (s : State) (x y : Reg) (n : Nibble), decode (encXYN 0xD x y n) = .drw x y n ∧
    ∃ t, exec (.drw x y n) s = .next t ∧
      (∀ row col,
        (spriteCovers s (s.getV x) (s.getV y) n.toNat row col → t.getPixel row col = !s.getPixel row col) ∧
        (¬spriteCovers s (s.getV x) (s.getV y) n.toNat row col → t.getPixel row col = s.getPixel row col)) ∧
      ((∃ row col, spriteCovers s (s.getV x) (s.getV y) n.toNat row col ∧ s.getPixel row col = true) →
        t.getV regVF = 1) ∧
      ((∀ row col, spriteCovers s (s.getV x) (s.getV y) n.toNat row col → s.getPixel row col = false) →
        t.getV regVF = 0) ∧
      UnchangedBut [regVF] [.pix] s t

/-- Drawn twice at the same place, a sprite restores the display, and the second draw collides exactly when one of the
covered pixels was dark before the first (so always, for a sprite with a set pixel, on a dark display; R91 item 4 as
R89 makes it, log 15). -/
def Obligations.DrawingTwiceRestoresTheDisplay : Prop :=
  ∀ (s : State) (x y : Reg) (n : Nibble), x ≠ regVF → y ≠ regVF →
    ∃ t u, exec (.drw x y n) s = .next t ∧ exec (.drw x y n) t = .next u ∧
      (∀ row col, u.getPixel row col = s.getPixel row col) ∧
      (u.getV regVF = 1 ↔
        ∃ row col, spriteCovers s (s.getV x) (s.getV y) n.toNat row col ∧ s.getPixel row col = false)

/-- One sprite row on the packed bytes gives the packed form of what the pixel form gives, with the same collision
(R90). -/
def Obligations.PackedRowAgreesWithPixels : Prop :=
  ∀ (row : Fin 32) (vx sprite : Byte) (c : Canvas),
    packedDrawRow row vx sprite { disp := c.pix.pack, hit := c.hit } =
      { disp := (drawRow row vx sprite c).pix.pack, hit := (drawRow row vx sprite c).hit }

/-- Readout hands out the 2048 pixels in row-major order and changes nothing (R92, decision D26). -/
def Obligations.ReadoutListsThePixelsRowMajor : Prop :=
  ∀ s : State,
    issue .readout s = .next s ∧
    ∃ bits, output .readout s = .frame bits ∧ bits.length = 2048 ∧
      ∀ (row : Fin 32) (col : Fin 64), bits[row.val * 64 + col.val]? = some (s.getPixel row col)

/-! The whole machine. -/

/-- Every instruction completes, in every state, and a step stops only on a Reset whose rom is too long (decision D19).
Every word has an instruction (30_encoding.md R50); that a fault's entry and a Step of a held machine are next states
is the model's reading (log 11, DEDUCED) of decisions D12 and D22, where R53 also allows no step. -/
def Obligations.NothingStopsButAnOverlongRom : Prop :=
  (∀ (i : Instr) (s : State), ∃ t, exec i s = .next t) ∧
  ∀ s : State, (∃ t, step s = .next t) ∨
    ∃ rom, s.upcoming = some (.reset rom) ∧ 3584 < rom.length ∧ step s = .refused (.romTooLong rom.length)

/-- No instruction changes a register or a piece of state that is not listed for it: VF only by the seven flag writers
and as a destination (10_state.md R13), Stack and SP only by call and return, PIX only by clear and draw, MEM only by
Fx33 and Fx55, ST only by Fx18, KEYS by none. -/
def Obligations.EveryInstructionKeepsItsFrame : Prop :=
  ∀ (i : Instr) (s t : State), exec i s = .next t → UnchangedBut (writesRegs i) (writesPieces i) s t

/-- A Step that executes no jump, call or return keeps an even PC even, skips and wraps included (10_state.md R27 item
5). -/
def Obligations.PcStaysEvenWithoutJumps : Prop :=
  ∀ s t : State, s.running → setsPc (decode s.fetchWord) = false → s.pc.toNat % 2 = 0 → step s = .next t →
    t.pc.toNat % 2 = 0

/-- Bits 15..12 of I never reach anything else (10_state.md R14). -/
def Obligations.HighBitsOfIndexAreUnobservable : Prop :=
  ∀ s t : State, SameButHighI s t → RelatedResults SameButHighI (step s) (step t)

/-- ST never reaches anything else (10_state.md R19). -/
def Obligations.SoundTimerIsUnobservable : Prop :=
  ∀ s t : State, SameButSt s t → RelatedResults SameButSt (step s) (step t)

/-- A stack entry above SP is never read before a call overwrites it (10_state.md R17). -/
def Obligations.StaleStackEntriesAreUnobservable : Prop :=
  ∀ s t : State, SameButStaleStack s t → RelatedResults SameButStaleStack (step s) (step t)

/-- At most one strobe is honoured in a clock, in the order rst_load, step, tick60, key_strobe, and bit k of key_in is
key k, and the image for Reset is the first rom_len bytes of rom_data (00_scope.md R7, 60_exceptions.md R108; decisions
D1 and D2, log 13). A rom_len above 3584 presents an image of that length, which OverlongRomIsRefused covers. -/
def Obligations.OneStrobeIsHonouredByPriority : Prop :=
  ∀ (p : PinsIn) (s : State),
    (p.rstLoad = true → ∃ rom : List Byte, rom.length = p.romLen.toNat ∧
      (∀ (j : Nat) (h : j < 3584), j < rom.length → rom[j]? = some p.romData[j]) ∧
      clockEdge p s = issue (.reset rom) s) ∧
    (p.rstLoad = false → p.step = true → clockEdge p s = issue (.step p.rnd) s) ∧
    (p.rstLoad = false → p.step = false → p.tick60 = true → clockEdge p s = issue .tick s) ∧
    (p.rstLoad = false → p.step = false → p.tick60 = false → p.keyStrobe = true →
      ∃ new : Vector Bool 16, (∀ k : KeyCode, new[k] = p.keyIn.getLsbD k.val) ∧
        clockEdge p s = issue (.keySample new) s) ∧
    (p.rstLoad = false → p.step = false → p.tick60 = false → p.keyStrobe = false → clockEdge p s = .next s)
end

