-- ==== Sys2Proof/Laws/Memory.lean ====
section
/-!
SUPPORT. The laws of the memory: a read after a write, a read after a run of stores, and that every memory operation
keeps the canonical form. None of the read laws needs the form.
-/

namespace Sys2Proof.Machine

theorem maskAddr_lt (a : Nat) : maskAddr a < 4096 := Nat.mod_lt _ (by decide)

/-- The mask is the spec's `& 0xFFF` (20_memory.md R29). -/
theorem maskAddr_eq_and (a : Nat) : maskAddr a = a &&& 0xFFF :=
  (Nat.and_two_pow_sub_one_eq_mod a 12).symm

theorem Memory.read_insert (m : Memory) (a : Nat) (b : Byte) (q : Nat) (h : ∀ c ∈ m, c.1 ≠ a) :
    Memory.read (Memory.insert (a, b) m) q = if q = a then b else Memory.read m q := by
  induction m with
  | nil => simp [Memory.insert, Memory.read, eq_comm]
  | cons c rest ih =>
    have hc : c.1 ≠ a := h c (by simp)
    have ih := ih (fun d hd => h d (by simp [hd]))
    obtain ⟨k, x⟩ := c
    unfold Memory.insert
    split
    · simp [Memory.read, eq_comm]
    · simp only [Memory.read, ih]
      by_cases hk : k = q
      · have : q ≠ a := fun e => hc (hk.trans e)
        simp [hk, this]
      · simp [hk]

theorem Memory.read_filter (m : Memory) (a q : Nat) :
    Memory.read (m.filter (fun c => c.1 != a)) q = if q = a then Memory.unlisted a else Memory.read m q := by
  induction m with
  | nil => by_cases h : q = a <;> simp [Memory.read, h]
  | cons c rest ih =>
    obtain ⟨k, x⟩ := c
    by_cases hk : k = a
    · subst hk
      by_cases hq : q = k
      · subst hq
        simpa using ih
      · have hq' : ¬k = q := fun e => hq e.symm
        simp [ih, hq, Memory.read, hq']
    · have hf : ((k, x) :: rest).filter (fun c => c.1 != a) = (k, x) :: rest.filter (fun c => c.1 != a) := by
        simp [hk]
      rw [hf]
      by_cases hq : q = a
      · subst hq
        simpa [Memory.read, hk] using ih
      · simp [Memory.read, ih, hq]

theorem Memory.read_write (m : Memory) (a : Nat) (b : Byte) (q : Nat) :
    Memory.read (Memory.write m a b) q = if q = a then b else Memory.read m q := by
  unfold Memory.write
  split
  · rename_i hb
    simp [Memory.read_filter, hb]
  · rw [Memory.read_insert _ _ _ _ (by simp)]
    by_cases hq : q = a <;> simp [hq, Memory.read_filter]

/-- A read after a write gives the byte written; every other address is untouched (20_memory.md R29, R37 item 1). -/
theorem Memory.readByte_writeByte (m : Memory) (a : Nat) (b : Byte) (q : Nat) :
    Memory.readByte (Memory.writeByte m a b) q = if maskAddr q = maskAddr a then b else Memory.readByte m q :=
  Memory.read_write m (maskAddr a) b (maskAddr q)

/-- Outside the masked addresses of a run of stores nothing changes. -/
theorem Memory.readByte_storeBytes_outside (bs : List Byte) (m : Memory) (a q : Nat)
    (h : ∀ k, k < bs.length → maskAddr q ≠ maskAddr (a + k)) :
    Memory.readByte (Memory.storeBytes m a bs) q = Memory.readByte m q := by
  induction bs generalizing m a with
  | nil => rfl
  | cons b rest ih =>
    rw [Memory.storeBytes, ih]
    · have h0 := h 0 (by simp)
      rw [Memory.readByte_writeByte, if_neg (by simpa using h0)]
    · intro k hk
      have := h (k + 1) (by simp [hk])
      rwa [Nat.add_assoc, Nat.add_comm 1 k]

/-- A run of at most 4096 stores: the k-th byte is read back at the k-th address. -/
theorem Memory.readByte_storeBytes_inside (bs : List Byte) (m : Memory) (a q k : Nat) (hlen : bs.length ≤ 4096)
    (hk : k < bs.length) (hq : maskAddr q = maskAddr (a + k)) :
    Memory.readByte (Memory.storeBytes m a bs) q = bs[k] := by
  induction bs generalizing m a k with
  | nil => simp at hk
  | cons b rest ih =>
    rw [Memory.storeBytes]
    simp only [List.length_cons] at hlen hk
    cases k with
    | zero =>
      rw [Memory.readByte_storeBytes_outside, Memory.readByte_writeByte]
      · simpa using fun h => absurd hq h
      · intro j hj
        rw [hq]
        unfold maskAddr
        omega
    | succ k =>
      have := ih (Memory.writeByte m a b) (a + 1) k (by omega) (by omega)
        (by rw [hq]; congr 1; omega)
      simpa using this

/-! The canonical form. -/

theorem Memory.wf_nil : Memory.wf [] := ⟨List.Pairwise.nil, by simp⟩

theorem Memory.mem_insert (cell : Host.Cell) (m : Memory) (c : Host.Cell) :
    c ∈ Memory.insert cell m ↔ c = cell ∨ c ∈ m := by
  induction m with
  | nil => simp [Memory.insert]
  | cons d rest ih =>
    unfold Memory.insert
    split
    · simp
    · simp only [List.mem_cons, ih]
      tauto

theorem Memory.pairwise_insert (cell : Host.Cell) (m : Memory) (hm : m.Pairwise (fun c d => c.1 < d.1))
    (hne : ∀ c ∈ m, c.1 ≠ cell.1) : (Memory.insert cell m).Pairwise (fun c d => c.1 < d.1) := by
  induction m with
  | nil => simp [Memory.insert]
  | cons d rest ih =>
    have hd : d.1 ≠ cell.1 := hne d (by simp)
    rw [List.pairwise_cons] at hm
    unfold Memory.insert
    split
    · rename_i hlt
      refine List.pairwise_cons.2 ⟨?_, List.pairwise_cons.2 hm⟩
      intro c hc
      rcases List.mem_cons.1 hc with rfl | hc
      · exact hlt
      · exact Nat.lt_trans hlt (hm.1 c hc)
    · rename_i hlt
      refine List.pairwise_cons.2 ⟨?_, ih hm.2 (fun c hc => hne c (by simp [hc]))⟩
      intro c hc
      rcases (Memory.mem_insert cell rest c).1 hc with rfl | hc
      · omega
      · exact hm.1 c hc

theorem Memory.wf_filter (m : Memory) (f : Host.Cell → Bool) (h : Memory.wf m) : Memory.wf (m.filter f) :=
  ⟨h.1.filter _, fun c hc => h.2 c (List.mem_of_mem_filter hc)⟩

theorem Memory.wf_write (m : Memory) (a : Nat) (b : Byte) (ha : a < 4096) (h : Memory.wf m) :
    Memory.wf (Memory.write m a b) := by
  have hf := Memory.wf_filter m (fun c => c.1 != a) h
  unfold Memory.write
  split
  · exact hf
  · rename_i hb
    refine ⟨Memory.pairwise_insert _ _ hf.1 (by simp), ?_⟩
    intro c hc
    rcases (Memory.mem_insert _ _ c).1 hc with rfl | hc
    · exact ⟨ha, hb⟩
    · exact hf.2 c hc

theorem Memory.wf_writeByte (m : Memory) (a : Nat) (b : Byte) (h : Memory.wf m) : Memory.wf (Memory.writeByte m a b) :=
  Memory.wf_write m _ b (maskAddr_lt a) h

/-- Every memory operation keeps the canonical form. -/
theorem Memory.wf_storeBytes (bs : List Byte) (m : Memory) (a : Nat) (h : Memory.wf m) :
    Memory.wf (Memory.storeBytes m a bs) := by
  induction bs generalizing m a with
  | nil => exact h
  | cons b rest ih => exact ih _ _ (Memory.wf_writeByte m a b h)

end Sys2Proof.Machine
end

