-- ==== Sys2Proof/Laws/State.lean ====
section
/-!
SUPPORT. What each update of State leaves in each field and accessor, so that no proof unfolds a record update.
-/

namespace Sys2Proof.Machine

/-! setV -/

@[simp] theorem State.setV_v (s : State) (r : Reg) (b : Byte) : (s.setV r b).v = s.v.set r b := rfl
@[simp] theorem State.setV_i (s : State) (r : Reg) (b : Byte) : (s.setV r b).i = s.i := rfl
@[simp] theorem State.setV_pc (s : State) (r : Reg) (b : Byte) : (s.setV r b).pc = s.pc := rfl
@[simp] theorem State.setV_sp (s : State) (r : Reg) (b : Byte) : (s.setV r b).sp = s.sp := rfl
@[simp] theorem State.setV_stack (s : State) (r : Reg) (b : Byte) : (s.setV r b).stack = s.stack := rfl
@[simp] theorem State.setV_dt (s : State) (r : Reg) (b : Byte) : (s.setV r b).dt = s.dt := rfl
@[simp] theorem State.setV_st (s : State) (r : Reg) (b : Byte) : (s.setV r b).st = s.st := rfl
@[simp] theorem State.setV_keys (s : State) (r : Reg) (b : Byte) : (s.setV r b).keys = s.keys := rfl
@[simp] theorem State.setV_wait (s : State) (r : Reg) (b : Byte) : (s.setV r b).wait = s.wait := rfl
@[simp] theorem State.setV_fault (s : State) (r : Reg) (b : Byte) : (s.setV r b).fault = s.fault := rfl
@[simp] theorem State.setV_pix (s : State) (r : Reg) (b : Byte) : (s.setV r b).pix = s.pix := rfl
@[simp] theorem State.setV_mem (s : State) (r : Reg) (b : Byte) : (s.setV r b).mem = s.mem := rfl
@[simp] theorem State.setV_agenda (s : State) (r : Reg) (b : Byte) : (s.setV r b).agenda = s.agenda := rfl
@[simp] theorem State.setV_env (s : State) (r : Reg) (b : Byte) : (s.setV r b).env = s.env := rfl
@[simp] theorem State.setV_rndPort (s : State) (r : Reg) (b : Byte) : (s.setV r b).rndPort = s.rndPort := rfl
@[simp] theorem State.setV_draws (s : State) (r : Reg) (b : Byte) : (s.setV r b).draws = s.draws := rfl
@[simp] theorem State.setV_getStack (s : State) (r : Reg) (b : Byte) (q : StackIndex) : (s.setV r b).getStack q = s.getStack q := rfl
@[simp] theorem State.setV_getKey (s : State) (r : Reg) (b : Byte) (q : KeyCode) : (s.setV r b).getKey q = s.getKey q := rfl
@[simp] theorem State.setV_getPixel (s : State) (r : Reg) (b : Byte) (row : Fin 32) (col : Fin 64) : (s.setV r b).getPixel row col = s.getPixel row col := rfl
@[simp] theorem State.setV_memRead (s : State) (r : Reg) (b : Byte) (a : Nat) : (s.setV r b).memRead a = s.memRead a := rfl

/-! setI -/

@[simp] theorem State.setI_v (s : State) (w : Word) : (s.setI w).v = s.v := rfl
@[simp] theorem State.setI_i (s : State) (w : Word) : (s.setI w).i = w := rfl
@[simp] theorem State.setI_pc (s : State) (w : Word) : (s.setI w).pc = s.pc := rfl
@[simp] theorem State.setI_sp (s : State) (w : Word) : (s.setI w).sp = s.sp := rfl
@[simp] theorem State.setI_stack (s : State) (w : Word) : (s.setI w).stack = s.stack := rfl
@[simp] theorem State.setI_dt (s : State) (w : Word) : (s.setI w).dt = s.dt := rfl
@[simp] theorem State.setI_st (s : State) (w : Word) : (s.setI w).st = s.st := rfl
@[simp] theorem State.setI_keys (s : State) (w : Word) : (s.setI w).keys = s.keys := rfl
@[simp] theorem State.setI_wait (s : State) (w : Word) : (s.setI w).wait = s.wait := rfl
@[simp] theorem State.setI_fault (s : State) (w : Word) : (s.setI w).fault = s.fault := rfl
@[simp] theorem State.setI_pix (s : State) (w : Word) : (s.setI w).pix = s.pix := rfl
@[simp] theorem State.setI_mem (s : State) (w : Word) : (s.setI w).mem = s.mem := rfl
@[simp] theorem State.setI_agenda (s : State) (w : Word) : (s.setI w).agenda = s.agenda := rfl
@[simp] theorem State.setI_env (s : State) (w : Word) : (s.setI w).env = s.env := rfl
@[simp] theorem State.setI_rndPort (s : State) (w : Word) : (s.setI w).rndPort = s.rndPort := rfl
@[simp] theorem State.setI_draws (s : State) (w : Word) : (s.setI w).draws = s.draws := rfl
@[simp] theorem State.setI_getV (s : State) (w : Word) (q : Reg) : (s.setI w).getV q = s.getV q := rfl
@[simp] theorem State.setI_getStack (s : State) (w : Word) (q : StackIndex) : (s.setI w).getStack q = s.getStack q := rfl
@[simp] theorem State.setI_getKey (s : State) (w : Word) (q : KeyCode) : (s.setI w).getKey q = s.getKey q := rfl
@[simp] theorem State.setI_getPixel (s : State) (w : Word) (row : Fin 32) (col : Fin 64) : (s.setI w).getPixel row col = s.getPixel row col := rfl
@[simp] theorem State.setI_memRead (s : State) (w : Word) (a : Nat) : (s.setI w).memRead a = s.memRead a := rfl

/-! setPc -/

@[simp] theorem State.setPc_v (s : State) (w : Word) : (s.setPc w).v = s.v := rfl
@[simp] theorem State.setPc_i (s : State) (w : Word) : (s.setPc w).i = s.i := rfl
@[simp] theorem State.setPc_pc (s : State) (w : Word) : (s.setPc w).pc = w := rfl
@[simp] theorem State.setPc_sp (s : State) (w : Word) : (s.setPc w).sp = s.sp := rfl
@[simp] theorem State.setPc_stack (s : State) (w : Word) : (s.setPc w).stack = s.stack := rfl
@[simp] theorem State.setPc_dt (s : State) (w : Word) : (s.setPc w).dt = s.dt := rfl
@[simp] theorem State.setPc_st (s : State) (w : Word) : (s.setPc w).st = s.st := rfl
@[simp] theorem State.setPc_keys (s : State) (w : Word) : (s.setPc w).keys = s.keys := rfl
@[simp] theorem State.setPc_wait (s : State) (w : Word) : (s.setPc w).wait = s.wait := rfl
@[simp] theorem State.setPc_fault (s : State) (w : Word) : (s.setPc w).fault = s.fault := rfl
@[simp] theorem State.setPc_pix (s : State) (w : Word) : (s.setPc w).pix = s.pix := rfl
@[simp] theorem State.setPc_mem (s : State) (w : Word) : (s.setPc w).mem = s.mem := rfl
@[simp] theorem State.setPc_agenda (s : State) (w : Word) : (s.setPc w).agenda = s.agenda := rfl
@[simp] theorem State.setPc_env (s : State) (w : Word) : (s.setPc w).env = s.env := rfl
@[simp] theorem State.setPc_rndPort (s : State) (w : Word) : (s.setPc w).rndPort = s.rndPort := rfl
@[simp] theorem State.setPc_draws (s : State) (w : Word) : (s.setPc w).draws = s.draws := rfl
@[simp] theorem State.setPc_getV (s : State) (w : Word) (q : Reg) : (s.setPc w).getV q = s.getV q := rfl
@[simp] theorem State.setPc_getStack (s : State) (w : Word) (q : StackIndex) : (s.setPc w).getStack q = s.getStack q := rfl
@[simp] theorem State.setPc_getKey (s : State) (w : Word) (q : KeyCode) : (s.setPc w).getKey q = s.getKey q := rfl
@[simp] theorem State.setPc_getPixel (s : State) (w : Word) (row : Fin 32) (col : Fin 64) : (s.setPc w).getPixel row col = s.getPixel row col := rfl
@[simp] theorem State.setPc_memRead (s : State) (w : Word) (a : Nat) : (s.setPc w).memRead a = s.memRead a := rfl

/-! setSp -/

@[simp] theorem State.setSp_v (s : State) (p : Option StackIndex) : (s.setSp p).v = s.v := rfl
@[simp] theorem State.setSp_i (s : State) (p : Option StackIndex) : (s.setSp p).i = s.i := rfl
@[simp] theorem State.setSp_pc (s : State) (p : Option StackIndex) : (s.setSp p).pc = s.pc := rfl
@[simp] theorem State.setSp_sp (s : State) (p : Option StackIndex) : (s.setSp p).sp = p := rfl
@[simp] theorem State.setSp_stack (s : State) (p : Option StackIndex) : (s.setSp p).stack = s.stack := rfl
@[simp] theorem State.setSp_dt (s : State) (p : Option StackIndex) : (s.setSp p).dt = s.dt := rfl
@[simp] theorem State.setSp_st (s : State) (p : Option StackIndex) : (s.setSp p).st = s.st := rfl
@[simp] theorem State.setSp_keys (s : State) (p : Option StackIndex) : (s.setSp p).keys = s.keys := rfl
@[simp] theorem State.setSp_wait (s : State) (p : Option StackIndex) : (s.setSp p).wait = s.wait := rfl
@[simp] theorem State.setSp_fault (s : State) (p : Option StackIndex) : (s.setSp p).fault = s.fault := rfl
@[simp] theorem State.setSp_pix (s : State) (p : Option StackIndex) : (s.setSp p).pix = s.pix := rfl
@[simp] theorem State.setSp_mem (s : State) (p : Option StackIndex) : (s.setSp p).mem = s.mem := rfl
@[simp] theorem State.setSp_agenda (s : State) (p : Option StackIndex) : (s.setSp p).agenda = s.agenda := rfl
@[simp] theorem State.setSp_env (s : State) (p : Option StackIndex) : (s.setSp p).env = s.env := rfl
@[simp] theorem State.setSp_rndPort (s : State) (p : Option StackIndex) : (s.setSp p).rndPort = s.rndPort := rfl
@[simp] theorem State.setSp_draws (s : State) (p : Option StackIndex) : (s.setSp p).draws = s.draws := rfl
@[simp] theorem State.setSp_getV (s : State) (p : Option StackIndex) (q : Reg) : (s.setSp p).getV q = s.getV q := rfl
@[simp] theorem State.setSp_getStack (s : State) (p : Option StackIndex) (q : StackIndex) : (s.setSp p).getStack q = s.getStack q := rfl
@[simp] theorem State.setSp_getKey (s : State) (p : Option StackIndex) (q : KeyCode) : (s.setSp p).getKey q = s.getKey q := rfl
@[simp] theorem State.setSp_getPixel (s : State) (p : Option StackIndex) (row : Fin 32) (col : Fin 64) : (s.setSp p).getPixel row col = s.getPixel row col := rfl
@[simp] theorem State.setSp_memRead (s : State) (p : Option StackIndex) (a : Nat) : (s.setSp p).memRead a = s.memRead a := rfl

/-! setStack -/

@[simp] theorem State.setStack_v (s : State) (j : StackIndex) (w : Word) : (s.setStack j w).v = s.v := rfl
@[simp] theorem State.setStack_i (s : State) (j : StackIndex) (w : Word) : (s.setStack j w).i = s.i := rfl
@[simp] theorem State.setStack_pc (s : State) (j : StackIndex) (w : Word) : (s.setStack j w).pc = s.pc := rfl
@[simp] theorem State.setStack_sp (s : State) (j : StackIndex) (w : Word) : (s.setStack j w).sp = s.sp := rfl
@[simp] theorem State.setStack_stack (s : State) (j : StackIndex) (w : Word) : (s.setStack j w).stack = s.stack.set j w := rfl
@[simp] theorem State.setStack_dt (s : State) (j : StackIndex) (w : Word) : (s.setStack j w).dt = s.dt := rfl
@[simp] theorem State.setStack_st (s : State) (j : StackIndex) (w : Word) : (s.setStack j w).st = s.st := rfl
@[simp] theorem State.setStack_keys (s : State) (j : StackIndex) (w : Word) : (s.setStack j w).keys = s.keys := rfl
@[simp] theorem State.setStack_wait (s : State) (j : StackIndex) (w : Word) : (s.setStack j w).wait = s.wait := rfl
@[simp] theorem State.setStack_fault (s : State) (j : StackIndex) (w : Word) : (s.setStack j w).fault = s.fault := rfl
@[simp] theorem State.setStack_pix (s : State) (j : StackIndex) (w : Word) : (s.setStack j w).pix = s.pix := rfl
@[simp] theorem State.setStack_mem (s : State) (j : StackIndex) (w : Word) : (s.setStack j w).mem = s.mem := rfl
@[simp] theorem State.setStack_agenda (s : State) (j : StackIndex) (w : Word) : (s.setStack j w).agenda = s.agenda := rfl
@[simp] theorem State.setStack_env (s : State) (j : StackIndex) (w : Word) : (s.setStack j w).env = s.env := rfl
@[simp] theorem State.setStack_rndPort (s : State) (j : StackIndex) (w : Word) : (s.setStack j w).rndPort = s.rndPort := rfl
@[simp] theorem State.setStack_draws (s : State) (j : StackIndex) (w : Word) : (s.setStack j w).draws = s.draws := rfl
@[simp] theorem State.setStack_getV (s : State) (j : StackIndex) (w : Word) (q : Reg) : (s.setStack j w).getV q = s.getV q := rfl
@[simp] theorem State.setStack_getKey (s : State) (j : StackIndex) (w : Word) (q : KeyCode) : (s.setStack j w).getKey q = s.getKey q := rfl
@[simp] theorem State.setStack_getPixel (s : State) (j : StackIndex) (w : Word) (row : Fin 32) (col : Fin 64) : (s.setStack j w).getPixel row col = s.getPixel row col := rfl
@[simp] theorem State.setStack_memRead (s : State) (j : StackIndex) (w : Word) (a : Nat) : (s.setStack j w).memRead a = s.memRead a := rfl

/-! setDt -/

@[simp] theorem State.setDt_v (s : State) (b : Byte) : (s.setDt b).v = s.v := rfl
@[simp] theorem State.setDt_i (s : State) (b : Byte) : (s.setDt b).i = s.i := rfl
@[simp] theorem State.setDt_pc (s : State) (b : Byte) : (s.setDt b).pc = s.pc := rfl
@[simp] theorem State.setDt_sp (s : State) (b : Byte) : (s.setDt b).sp = s.sp := rfl
@[simp] theorem State.setDt_stack (s : State) (b : Byte) : (s.setDt b).stack = s.stack := rfl
@[simp] theorem State.setDt_dt (s : State) (b : Byte) : (s.setDt b).dt = b := rfl
@[simp] theorem State.setDt_st (s : State) (b : Byte) : (s.setDt b).st = s.st := rfl
@[simp] theorem State.setDt_keys (s : State) (b : Byte) : (s.setDt b).keys = s.keys := rfl
@[simp] theorem State.setDt_wait (s : State) (b : Byte) : (s.setDt b).wait = s.wait := rfl
@[simp] theorem State.setDt_fault (s : State) (b : Byte) : (s.setDt b).fault = s.fault := rfl
@[simp] theorem State.setDt_pix (s : State) (b : Byte) : (s.setDt b).pix = s.pix := rfl
@[simp] theorem State.setDt_mem (s : State) (b : Byte) : (s.setDt b).mem = s.mem := rfl
@[simp] theorem State.setDt_agenda (s : State) (b : Byte) : (s.setDt b).agenda = s.agenda := rfl
@[simp] theorem State.setDt_env (s : State) (b : Byte) : (s.setDt b).env = s.env := rfl
@[simp] theorem State.setDt_rndPort (s : State) (b : Byte) : (s.setDt b).rndPort = s.rndPort := rfl
@[simp] theorem State.setDt_draws (s : State) (b : Byte) : (s.setDt b).draws = s.draws := rfl
@[simp] theorem State.setDt_getV (s : State) (b : Byte) (q : Reg) : (s.setDt b).getV q = s.getV q := rfl
@[simp] theorem State.setDt_getStack (s : State) (b : Byte) (q : StackIndex) : (s.setDt b).getStack q = s.getStack q := rfl
@[simp] theorem State.setDt_getKey (s : State) (b : Byte) (q : KeyCode) : (s.setDt b).getKey q = s.getKey q := rfl
@[simp] theorem State.setDt_getPixel (s : State) (b : Byte) (row : Fin 32) (col : Fin 64) : (s.setDt b).getPixel row col = s.getPixel row col := rfl
@[simp] theorem State.setDt_memRead (s : State) (b : Byte) (a : Nat) : (s.setDt b).memRead a = s.memRead a := rfl

/-! setSt -/

@[simp] theorem State.setSt_v (s : State) (b : Byte) : (s.setSt b).v = s.v := rfl
@[simp] theorem State.setSt_i (s : State) (b : Byte) : (s.setSt b).i = s.i := rfl
@[simp] theorem State.setSt_pc (s : State) (b : Byte) : (s.setSt b).pc = s.pc := rfl
@[simp] theorem State.setSt_sp (s : State) (b : Byte) : (s.setSt b).sp = s.sp := rfl
@[simp] theorem State.setSt_stack (s : State) (b : Byte) : (s.setSt b).stack = s.stack := rfl
@[simp] theorem State.setSt_dt (s : State) (b : Byte) : (s.setSt b).dt = s.dt := rfl
@[simp] theorem State.setSt_st (s : State) (b : Byte) : (s.setSt b).st = b := rfl
@[simp] theorem State.setSt_keys (s : State) (b : Byte) : (s.setSt b).keys = s.keys := rfl
@[simp] theorem State.setSt_wait (s : State) (b : Byte) : (s.setSt b).wait = s.wait := rfl
@[simp] theorem State.setSt_fault (s : State) (b : Byte) : (s.setSt b).fault = s.fault := rfl
@[simp] theorem State.setSt_pix (s : State) (b : Byte) : (s.setSt b).pix = s.pix := rfl
@[simp] theorem State.setSt_mem (s : State) (b : Byte) : (s.setSt b).mem = s.mem := rfl
@[simp] theorem State.setSt_agenda (s : State) (b : Byte) : (s.setSt b).agenda = s.agenda := rfl
@[simp] theorem State.setSt_env (s : State) (b : Byte) : (s.setSt b).env = s.env := rfl
@[simp] theorem State.setSt_rndPort (s : State) (b : Byte) : (s.setSt b).rndPort = s.rndPort := rfl
@[simp] theorem State.setSt_draws (s : State) (b : Byte) : (s.setSt b).draws = s.draws := rfl
@[simp] theorem State.setSt_getV (s : State) (b : Byte) (q : Reg) : (s.setSt b).getV q = s.getV q := rfl
@[simp] theorem State.setSt_getStack (s : State) (b : Byte) (q : StackIndex) : (s.setSt b).getStack q = s.getStack q := rfl
@[simp] theorem State.setSt_getKey (s : State) (b : Byte) (q : KeyCode) : (s.setSt b).getKey q = s.getKey q := rfl
@[simp] theorem State.setSt_getPixel (s : State) (b : Byte) (row : Fin 32) (col : Fin 64) : (s.setSt b).getPixel row col = s.getPixel row col := rfl
@[simp] theorem State.setSt_memRead (s : State) (b : Byte) (a : Nat) : (s.setSt b).memRead a = s.memRead a := rfl

/-! setKeys -/

@[simp] theorem State.setKeys_v (s : State) (new : Vector Bool 16) : (s.setKeys new).v = s.v := rfl
@[simp] theorem State.setKeys_i (s : State) (new : Vector Bool 16) : (s.setKeys new).i = s.i := rfl
@[simp] theorem State.setKeys_pc (s : State) (new : Vector Bool 16) : (s.setKeys new).pc = s.pc := rfl
@[simp] theorem State.setKeys_sp (s : State) (new : Vector Bool 16) : (s.setKeys new).sp = s.sp := rfl
@[simp] theorem State.setKeys_stack (s : State) (new : Vector Bool 16) : (s.setKeys new).stack = s.stack := rfl
@[simp] theorem State.setKeys_dt (s : State) (new : Vector Bool 16) : (s.setKeys new).dt = s.dt := rfl
@[simp] theorem State.setKeys_st (s : State) (new : Vector Bool 16) : (s.setKeys new).st = s.st := rfl
@[simp] theorem State.setKeys_keys (s : State) (new : Vector Bool 16) : (s.setKeys new).keys = new := rfl
@[simp] theorem State.setKeys_wait (s : State) (new : Vector Bool 16) : (s.setKeys new).wait = s.wait := rfl
@[simp] theorem State.setKeys_fault (s : State) (new : Vector Bool 16) : (s.setKeys new).fault = s.fault := rfl
@[simp] theorem State.setKeys_pix (s : State) (new : Vector Bool 16) : (s.setKeys new).pix = s.pix := rfl
@[simp] theorem State.setKeys_mem (s : State) (new : Vector Bool 16) : (s.setKeys new).mem = s.mem := rfl
@[simp] theorem State.setKeys_agenda (s : State) (new : Vector Bool 16) : (s.setKeys new).agenda = s.agenda := rfl
@[simp] theorem State.setKeys_env (s : State) (new : Vector Bool 16) : (s.setKeys new).env = s.env := rfl
@[simp] theorem State.setKeys_rndPort (s : State) (new : Vector Bool 16) : (s.setKeys new).rndPort = s.rndPort := rfl
@[simp] theorem State.setKeys_draws (s : State) (new : Vector Bool 16) : (s.setKeys new).draws = s.draws := rfl
@[simp] theorem State.setKeys_getV (s : State) (new : Vector Bool 16) (q : Reg) : (s.setKeys new).getV q = s.getV q := rfl
@[simp] theorem State.setKeys_getStack (s : State) (new : Vector Bool 16) (q : StackIndex) : (s.setKeys new).getStack q = s.getStack q := rfl
@[simp] theorem State.setKeys_getPixel (s : State) (new : Vector Bool 16) (row : Fin 32) (col : Fin 64) : (s.setKeys new).getPixel row col = s.getPixel row col := rfl
@[simp] theorem State.setKeys_memRead (s : State) (new : Vector Bool 16) (a : Nat) : (s.setKeys new).memRead a = s.memRead a := rfl

/-! setWait -/

@[simp] theorem State.setWait_v (s : State) (w : Wait) : (s.setWait w).v = s.v := rfl
@[simp] theorem State.setWait_i (s : State) (w : Wait) : (s.setWait w).i = s.i := rfl
@[simp] theorem State.setWait_pc (s : State) (w : Wait) : (s.setWait w).pc = s.pc := rfl
@[simp] theorem State.setWait_sp (s : State) (w : Wait) : (s.setWait w).sp = s.sp := rfl
@[simp] theorem State.setWait_stack (s : State) (w : Wait) : (s.setWait w).stack = s.stack := rfl
@[simp] theorem State.setWait_dt (s : State) (w : Wait) : (s.setWait w).dt = s.dt := rfl
@[simp] theorem State.setWait_st (s : State) (w : Wait) : (s.setWait w).st = s.st := rfl
@[simp] theorem State.setWait_keys (s : State) (w : Wait) : (s.setWait w).keys = s.keys := rfl
@[simp] theorem State.setWait_wait (s : State) (w : Wait) : (s.setWait w).wait = w := rfl
@[simp] theorem State.setWait_fault (s : State) (w : Wait) : (s.setWait w).fault = s.fault := rfl
@[simp] theorem State.setWait_pix (s : State) (w : Wait) : (s.setWait w).pix = s.pix := rfl
@[simp] theorem State.setWait_mem (s : State) (w : Wait) : (s.setWait w).mem = s.mem := rfl
@[simp] theorem State.setWait_agenda (s : State) (w : Wait) : (s.setWait w).agenda = s.agenda := rfl
@[simp] theorem State.setWait_env (s : State) (w : Wait) : (s.setWait w).env = s.env := rfl
@[simp] theorem State.setWait_rndPort (s : State) (w : Wait) : (s.setWait w).rndPort = s.rndPort := rfl
@[simp] theorem State.setWait_draws (s : State) (w : Wait) : (s.setWait w).draws = s.draws := rfl
@[simp] theorem State.setWait_getV (s : State) (w : Wait) (q : Reg) : (s.setWait w).getV q = s.getV q := rfl
@[simp] theorem State.setWait_getStack (s : State) (w : Wait) (q : StackIndex) : (s.setWait w).getStack q = s.getStack q := rfl
@[simp] theorem State.setWait_getKey (s : State) (w : Wait) (q : KeyCode) : (s.setWait w).getKey q = s.getKey q := rfl
@[simp] theorem State.setWait_getPixel (s : State) (w : Wait) (row : Fin 32) (col : Fin 64) : (s.setWait w).getPixel row col = s.getPixel row col := rfl
@[simp] theorem State.setWait_memRead (s : State) (w : Wait) (a : Nat) : (s.setWait w).memRead a = s.memRead a := rfl

/-! setFault -/

@[simp] theorem State.setFault_v (s : State) (c : FaultLatch) : (s.setFault c).v = s.v := rfl
@[simp] theorem State.setFault_i (s : State) (c : FaultLatch) : (s.setFault c).i = s.i := rfl
@[simp] theorem State.setFault_pc (s : State) (c : FaultLatch) : (s.setFault c).pc = s.pc := rfl
@[simp] theorem State.setFault_sp (s : State) (c : FaultLatch) : (s.setFault c).sp = s.sp := rfl
@[simp] theorem State.setFault_stack (s : State) (c : FaultLatch) : (s.setFault c).stack = s.stack := rfl
@[simp] theorem State.setFault_dt (s : State) (c : FaultLatch) : (s.setFault c).dt = s.dt := rfl
@[simp] theorem State.setFault_st (s : State) (c : FaultLatch) : (s.setFault c).st = s.st := rfl
@[simp] theorem State.setFault_keys (s : State) (c : FaultLatch) : (s.setFault c).keys = s.keys := rfl
@[simp] theorem State.setFault_wait (s : State) (c : FaultLatch) : (s.setFault c).wait = s.wait := rfl
@[simp] theorem State.setFault_fault (s : State) (c : FaultLatch) : (s.setFault c).fault = c := rfl
@[simp] theorem State.setFault_pix (s : State) (c : FaultLatch) : (s.setFault c).pix = s.pix := rfl
@[simp] theorem State.setFault_mem (s : State) (c : FaultLatch) : (s.setFault c).mem = s.mem := rfl
@[simp] theorem State.setFault_agenda (s : State) (c : FaultLatch) : (s.setFault c).agenda = s.agenda := rfl
@[simp] theorem State.setFault_env (s : State) (c : FaultLatch) : (s.setFault c).env = s.env := rfl
@[simp] theorem State.setFault_rndPort (s : State) (c : FaultLatch) : (s.setFault c).rndPort = s.rndPort := rfl
@[simp] theorem State.setFault_draws (s : State) (c : FaultLatch) : (s.setFault c).draws = s.draws := rfl
@[simp] theorem State.setFault_getV (s : State) (c : FaultLatch) (q : Reg) : (s.setFault c).getV q = s.getV q := rfl
@[simp] theorem State.setFault_getStack (s : State) (c : FaultLatch) (q : StackIndex) : (s.setFault c).getStack q = s.getStack q := rfl
@[simp] theorem State.setFault_getKey (s : State) (c : FaultLatch) (q : KeyCode) : (s.setFault c).getKey q = s.getKey q := rfl
@[simp] theorem State.setFault_getPixel (s : State) (c : FaultLatch) (row : Fin 32) (col : Fin 64) : (s.setFault c).getPixel row col = s.getPixel row col := rfl
@[simp] theorem State.setFault_memRead (s : State) (c : FaultLatch) (a : Nat) : (s.setFault c).memRead a = s.memRead a := rfl

/-! setPix -/

@[simp] theorem State.setPix_v (s : State) (p : Display) : (s.setPix p).v = s.v := rfl
@[simp] theorem State.setPix_i (s : State) (p : Display) : (s.setPix p).i = s.i := rfl
@[simp] theorem State.setPix_pc (s : State) (p : Display) : (s.setPix p).pc = s.pc := rfl
@[simp] theorem State.setPix_sp (s : State) (p : Display) : (s.setPix p).sp = s.sp := rfl
@[simp] theorem State.setPix_stack (s : State) (p : Display) : (s.setPix p).stack = s.stack := rfl
@[simp] theorem State.setPix_dt (s : State) (p : Display) : (s.setPix p).dt = s.dt := rfl
@[simp] theorem State.setPix_st (s : State) (p : Display) : (s.setPix p).st = s.st := rfl
@[simp] theorem State.setPix_keys (s : State) (p : Display) : (s.setPix p).keys = s.keys := rfl
@[simp] theorem State.setPix_wait (s : State) (p : Display) : (s.setPix p).wait = s.wait := rfl
@[simp] theorem State.setPix_fault (s : State) (p : Display) : (s.setPix p).fault = s.fault := rfl
@[simp] theorem State.setPix_pix (s : State) (p : Display) : (s.setPix p).pix = p := rfl
@[simp] theorem State.setPix_mem (s : State) (p : Display) : (s.setPix p).mem = s.mem := rfl
@[simp] theorem State.setPix_agenda (s : State) (p : Display) : (s.setPix p).agenda = s.agenda := rfl
@[simp] theorem State.setPix_env (s : State) (p : Display) : (s.setPix p).env = s.env := rfl
@[simp] theorem State.setPix_rndPort (s : State) (p : Display) : (s.setPix p).rndPort = s.rndPort := rfl
@[simp] theorem State.setPix_draws (s : State) (p : Display) : (s.setPix p).draws = s.draws := rfl
@[simp] theorem State.setPix_getV (s : State) (p : Display) (q : Reg) : (s.setPix p).getV q = s.getV q := rfl
@[simp] theorem State.setPix_getStack (s : State) (p : Display) (q : StackIndex) : (s.setPix p).getStack q = s.getStack q := rfl
@[simp] theorem State.setPix_getKey (s : State) (p : Display) (q : KeyCode) : (s.setPix p).getKey q = s.getKey q := rfl
@[simp] theorem State.setPix_memRead (s : State) (p : Display) (a : Nat) : (s.setPix p).memRead a = s.memRead a := rfl

/-! setMem -/

@[simp] theorem State.setMem_v (s : State) (m : Memory) : (s.setMem m).v = s.v := rfl
@[simp] theorem State.setMem_i (s : State) (m : Memory) : (s.setMem m).i = s.i := rfl
@[simp] theorem State.setMem_pc (s : State) (m : Memory) : (s.setMem m).pc = s.pc := rfl
@[simp] theorem State.setMem_sp (s : State) (m : Memory) : (s.setMem m).sp = s.sp := rfl
@[simp] theorem State.setMem_stack (s : State) (m : Memory) : (s.setMem m).stack = s.stack := rfl
@[simp] theorem State.setMem_dt (s : State) (m : Memory) : (s.setMem m).dt = s.dt := rfl
@[simp] theorem State.setMem_st (s : State) (m : Memory) : (s.setMem m).st = s.st := rfl
@[simp] theorem State.setMem_keys (s : State) (m : Memory) : (s.setMem m).keys = s.keys := rfl
@[simp] theorem State.setMem_wait (s : State) (m : Memory) : (s.setMem m).wait = s.wait := rfl
@[simp] theorem State.setMem_fault (s : State) (m : Memory) : (s.setMem m).fault = s.fault := rfl
@[simp] theorem State.setMem_pix (s : State) (m : Memory) : (s.setMem m).pix = s.pix := rfl
@[simp] theorem State.setMem_mem (s : State) (m : Memory) : (s.setMem m).mem = m := rfl
@[simp] theorem State.setMem_agenda (s : State) (m : Memory) : (s.setMem m).agenda = s.agenda := rfl
@[simp] theorem State.setMem_env (s : State) (m : Memory) : (s.setMem m).env = s.env := rfl
@[simp] theorem State.setMem_rndPort (s : State) (m : Memory) : (s.setMem m).rndPort = s.rndPort := rfl
@[simp] theorem State.setMem_draws (s : State) (m : Memory) : (s.setMem m).draws = s.draws := rfl
@[simp] theorem State.setMem_getV (s : State) (m : Memory) (q : Reg) : (s.setMem m).getV q = s.getV q := rfl
@[simp] theorem State.setMem_getStack (s : State) (m : Memory) (q : StackIndex) : (s.setMem m).getStack q = s.getStack q := rfl
@[simp] theorem State.setMem_getKey (s : State) (m : Memory) (q : KeyCode) : (s.setMem m).getKey q = s.getKey q := rfl
@[simp] theorem State.setMem_getPixel (s : State) (m : Memory) (row : Fin 32) (col : Fin 64) : (s.setMem m).getPixel row col = s.getPixel row col := rfl

/-! setAgenda -/

@[simp] theorem State.setAgenda_v (s : State) (es : List Event) : (s.setAgenda es).v = s.v := rfl
@[simp] theorem State.setAgenda_i (s : State) (es : List Event) : (s.setAgenda es).i = s.i := rfl
@[simp] theorem State.setAgenda_pc (s : State) (es : List Event) : (s.setAgenda es).pc = s.pc := rfl
@[simp] theorem State.setAgenda_sp (s : State) (es : List Event) : (s.setAgenda es).sp = s.sp := rfl
@[simp] theorem State.setAgenda_stack (s : State) (es : List Event) : (s.setAgenda es).stack = s.stack := rfl
@[simp] theorem State.setAgenda_dt (s : State) (es : List Event) : (s.setAgenda es).dt = s.dt := rfl
@[simp] theorem State.setAgenda_st (s : State) (es : List Event) : (s.setAgenda es).st = s.st := rfl
@[simp] theorem State.setAgenda_keys (s : State) (es : List Event) : (s.setAgenda es).keys = s.keys := rfl
@[simp] theorem State.setAgenda_wait (s : State) (es : List Event) : (s.setAgenda es).wait = s.wait := rfl
@[simp] theorem State.setAgenda_fault (s : State) (es : List Event) : (s.setAgenda es).fault = s.fault := rfl
@[simp] theorem State.setAgenda_pix (s : State) (es : List Event) : (s.setAgenda es).pix = s.pix := rfl
@[simp] theorem State.setAgenda_mem (s : State) (es : List Event) : (s.setAgenda es).mem = s.mem := rfl
@[simp] theorem State.setAgenda_agenda (s : State) (es : List Event) : (s.setAgenda es).agenda = es := rfl
@[simp] theorem State.setAgenda_env (s : State) (es : List Event) : (s.setAgenda es).env = s.env := rfl
@[simp] theorem State.setAgenda_rndPort (s : State) (es : List Event) : (s.setAgenda es).rndPort = s.rndPort := rfl
@[simp] theorem State.setAgenda_draws (s : State) (es : List Event) : (s.setAgenda es).draws = s.draws := rfl
@[simp] theorem State.setAgenda_getV (s : State) (es : List Event) (q : Reg) : (s.setAgenda es).getV q = s.getV q := rfl
@[simp] theorem State.setAgenda_getStack (s : State) (es : List Event) (q : StackIndex) : (s.setAgenda es).getStack q = s.getStack q := rfl
@[simp] theorem State.setAgenda_getKey (s : State) (es : List Event) (q : KeyCode) : (s.setAgenda es).getKey q = s.getKey q := rfl
@[simp] theorem State.setAgenda_getPixel (s : State) (es : List Event) (row : Fin 32) (col : Fin 64) : (s.setAgenda es).getPixel row col = s.getPixel row col := rfl
@[simp] theorem State.setAgenda_memRead (s : State) (es : List Event) (a : Nat) : (s.setAgenda es).memRead a = s.memRead a := rfl

/-! setEnv -/

@[simp] theorem State.setEnv_v (s : State) (m : Environment) : (s.setEnv m).v = s.v := rfl
@[simp] theorem State.setEnv_i (s : State) (m : Environment) : (s.setEnv m).i = s.i := rfl
@[simp] theorem State.setEnv_pc (s : State) (m : Environment) : (s.setEnv m).pc = s.pc := rfl
@[simp] theorem State.setEnv_sp (s : State) (m : Environment) : (s.setEnv m).sp = s.sp := rfl
@[simp] theorem State.setEnv_stack (s : State) (m : Environment) : (s.setEnv m).stack = s.stack := rfl
@[simp] theorem State.setEnv_dt (s : State) (m : Environment) : (s.setEnv m).dt = s.dt := rfl
@[simp] theorem State.setEnv_st (s : State) (m : Environment) : (s.setEnv m).st = s.st := rfl
@[simp] theorem State.setEnv_keys (s : State) (m : Environment) : (s.setEnv m).keys = s.keys := rfl
@[simp] theorem State.setEnv_wait (s : State) (m : Environment) : (s.setEnv m).wait = s.wait := rfl
@[simp] theorem State.setEnv_fault (s : State) (m : Environment) : (s.setEnv m).fault = s.fault := rfl
@[simp] theorem State.setEnv_pix (s : State) (m : Environment) : (s.setEnv m).pix = s.pix := rfl
@[simp] theorem State.setEnv_mem (s : State) (m : Environment) : (s.setEnv m).mem = s.mem := rfl
@[simp] theorem State.setEnv_agenda (s : State) (m : Environment) : (s.setEnv m).agenda = s.agenda := rfl
@[simp] theorem State.setEnv_env (s : State) (m : Environment) : (s.setEnv m).env = m := rfl
@[simp] theorem State.setEnv_rndPort (s : State) (m : Environment) : (s.setEnv m).rndPort = s.rndPort := rfl
@[simp] theorem State.setEnv_draws (s : State) (m : Environment) : (s.setEnv m).draws = s.draws := rfl
@[simp] theorem State.setEnv_getV (s : State) (m : Environment) (q : Reg) : (s.setEnv m).getV q = s.getV q := rfl
@[simp] theorem State.setEnv_getStack (s : State) (m : Environment) (q : StackIndex) : (s.setEnv m).getStack q = s.getStack q := rfl
@[simp] theorem State.setEnv_getKey (s : State) (m : Environment) (q : KeyCode) : (s.setEnv m).getKey q = s.getKey q := rfl
@[simp] theorem State.setEnv_getPixel (s : State) (m : Environment) (row : Fin 32) (col : Fin 64) : (s.setEnv m).getPixel row col = s.getPixel row col := rfl
@[simp] theorem State.setEnv_memRead (s : State) (m : Environment) (a : Nat) : (s.setEnv m).memRead a = s.memRead a := rfl

/-! setRndPort -/

@[simp] theorem State.setRndPort_v (s : State) (b : Option Byte) : (s.setRndPort b).v = s.v := rfl
@[simp] theorem State.setRndPort_i (s : State) (b : Option Byte) : (s.setRndPort b).i = s.i := rfl
@[simp] theorem State.setRndPort_pc (s : State) (b : Option Byte) : (s.setRndPort b).pc = s.pc := rfl
@[simp] theorem State.setRndPort_sp (s : State) (b : Option Byte) : (s.setRndPort b).sp = s.sp := rfl
@[simp] theorem State.setRndPort_stack (s : State) (b : Option Byte) : (s.setRndPort b).stack = s.stack := rfl
@[simp] theorem State.setRndPort_dt (s : State) (b : Option Byte) : (s.setRndPort b).dt = s.dt := rfl
@[simp] theorem State.setRndPort_st (s : State) (b : Option Byte) : (s.setRndPort b).st = s.st := rfl
@[simp] theorem State.setRndPort_keys (s : State) (b : Option Byte) : (s.setRndPort b).keys = s.keys := rfl
@[simp] theorem State.setRndPort_wait (s : State) (b : Option Byte) : (s.setRndPort b).wait = s.wait := rfl
@[simp] theorem State.setRndPort_fault (s : State) (b : Option Byte) : (s.setRndPort b).fault = s.fault := rfl
@[simp] theorem State.setRndPort_pix (s : State) (b : Option Byte) : (s.setRndPort b).pix = s.pix := rfl
@[simp] theorem State.setRndPort_mem (s : State) (b : Option Byte) : (s.setRndPort b).mem = s.mem := rfl
@[simp] theorem State.setRndPort_agenda (s : State) (b : Option Byte) : (s.setRndPort b).agenda = s.agenda := rfl
@[simp] theorem State.setRndPort_env (s : State) (b : Option Byte) : (s.setRndPort b).env = s.env := rfl
@[simp] theorem State.setRndPort_rndPort (s : State) (b : Option Byte) : (s.setRndPort b).rndPort = b := rfl
@[simp] theorem State.setRndPort_draws (s : State) (b : Option Byte) : (s.setRndPort b).draws = s.draws := rfl
@[simp] theorem State.setRndPort_getV (s : State) (b : Option Byte) (q : Reg) : (s.setRndPort b).getV q = s.getV q := rfl
@[simp] theorem State.setRndPort_getStack (s : State) (b : Option Byte) (q : StackIndex) : (s.setRndPort b).getStack q = s.getStack q := rfl
@[simp] theorem State.setRndPort_getKey (s : State) (b : Option Byte) (q : KeyCode) : (s.setRndPort b).getKey q = s.getKey q := rfl
@[simp] theorem State.setRndPort_getPixel (s : State) (b : Option Byte) (row : Fin 32) (col : Fin 64) : (s.setRndPort b).getPixel row col = s.getPixel row col := rfl
@[simp] theorem State.setRndPort_memRead (s : State) (b : Option Byte) (a : Nat) : (s.setRndPort b).memRead a = s.memRead a := rfl

/-! setDraws -/

@[simp] theorem State.setDraws_v (s : State) (n : Nat) : (s.setDraws n).v = s.v := rfl
@[simp] theorem State.setDraws_i (s : State) (n : Nat) : (s.setDraws n).i = s.i := rfl
@[simp] theorem State.setDraws_pc (s : State) (n : Nat) : (s.setDraws n).pc = s.pc := rfl
@[simp] theorem State.setDraws_sp (s : State) (n : Nat) : (s.setDraws n).sp = s.sp := rfl
@[simp] theorem State.setDraws_stack (s : State) (n : Nat) : (s.setDraws n).stack = s.stack := rfl
@[simp] theorem State.setDraws_dt (s : State) (n : Nat) : (s.setDraws n).dt = s.dt := rfl
@[simp] theorem State.setDraws_st (s : State) (n : Nat) : (s.setDraws n).st = s.st := rfl
@[simp] theorem State.setDraws_keys (s : State) (n : Nat) : (s.setDraws n).keys = s.keys := rfl
@[simp] theorem State.setDraws_wait (s : State) (n : Nat) : (s.setDraws n).wait = s.wait := rfl
@[simp] theorem State.setDraws_fault (s : State) (n : Nat) : (s.setDraws n).fault = s.fault := rfl
@[simp] theorem State.setDraws_pix (s : State) (n : Nat) : (s.setDraws n).pix = s.pix := rfl
@[simp] theorem State.setDraws_mem (s : State) (n : Nat) : (s.setDraws n).mem = s.mem := rfl
@[simp] theorem State.setDraws_agenda (s : State) (n : Nat) : (s.setDraws n).agenda = s.agenda := rfl
@[simp] theorem State.setDraws_env (s : State) (n : Nat) : (s.setDraws n).env = s.env := rfl
@[simp] theorem State.setDraws_rndPort (s : State) (n : Nat) : (s.setDraws n).rndPort = s.rndPort := rfl
@[simp] theorem State.setDraws_draws (s : State) (n : Nat) : (s.setDraws n).draws = n := rfl
@[simp] theorem State.setDraws_getV (s : State) (n : Nat) (q : Reg) : (s.setDraws n).getV q = s.getV q := rfl
@[simp] theorem State.setDraws_getStack (s : State) (n : Nat) (q : StackIndex) : (s.setDraws n).getStack q = s.getStack q := rfl
@[simp] theorem State.setDraws_getKey (s : State) (n : Nat) (q : KeyCode) : (s.setDraws n).getKey q = s.getKey q := rfl
@[simp] theorem State.setDraws_getPixel (s : State) (n : Nat) (row : Fin 32) (col : Fin 64) : (s.setDraws n).getPixel row col = s.getPixel row col := rfl
@[simp] theorem State.setDraws_memRead (s : State) (n : Nat) (a : Nat) : (s.setDraws n).memRead a = s.memRead a := rfl

/-! The accessors after the update of their own array. -/

@[simp] theorem State.getV_setV_same (s : State) (r : Reg) (b : Byte) : (s.setV r b).getV r = b := by
  simp [State.getV, State.setV]

theorem State.getV_setV (s : State) (r q : Reg) (b : Byte) :
    (s.setV r b).getV q = if q = r then b else s.getV q := by
  by_cases h : q = r
  · simp [h]
  · have : r.val ≠ q.val := fun e => h (Fin.ext e.symm)
    simp [State.getV, State.setV, h, this]

theorem State.getV_setV_of_ne (s : State) {r q : Reg} (b : Byte) (h : q ≠ r) : (s.setV r b).getV q = s.getV q := by
  simp [State.getV_setV, h]

theorem State.getStack_setStack (s : State) (j q : StackIndex) (w : Word) :
    (s.setStack j w).getStack q = if q = j then w else s.getStack q := by
  by_cases h : q = j
  · simp [h, State.getStack, State.setStack]
  · have : j.val ≠ q.val := fun e => h (Fin.ext e.symm)
    simp [State.getStack, State.setStack, h, this]

@[simp] theorem State.getKey_setKeys (s : State) (new : Vector Bool 16) (k : KeyCode) :
    (s.setKeys new).getKey k = new[k] := rfl

@[simp] theorem State.getPixel_setPix (s : State) (p : Display) (row : Fin 32) (col : Fin 64) :
    (s.setPix p).getPixel row col = p.pixel row col := rfl

@[simp] theorem State.memRead_setMem (s : State) (m : Memory) (a : Nat) : (s.setMem m).memRead a = m.readByte a := rfl

end Sys2Proof.Machine
end

