-- ==== Sys2Proof/Laws/Ops.lean ====
section
/-!
SUPPORT. One lemma for each shared operation: the stack pointer, stores, skips, operand forms, the register group,
flag writes, fetch, timers.
-/

namespace Sys2Proof.Machine

/-! The stack pointer. -/

theorem spValue_range (p : Option StackIndex) : -1 ≤ spValue p ∧ spValue p ≤ 15 := by
  cases p with
  | none => simp [spValue]
  | some j => simp only [spValue]; omega

theorem pushSlot_eq_none (p : Option StackIndex) : pushSlot p = none ↔ spValue p = 15 := by
  cases p with
  | none => simp [pushSlot, spValue]
  | some j =>
    simp only [pushSlot, spValue]
    split
    · simp; omega
    · simp; omega

theorem pushSlot_eq_some {p : Option StackIndex} {j : StackIndex} (h : pushSlot p = some j) :
    (j.val : Int) = spValue p + 1 := by
  cases p with
  | none => simp [pushSlot] at h; simp [spValue, ← h]
  | some k =>
    simp only [pushSlot] at h
    split at h
    · cases h; simp [spValue]
    · cases h

theorem spValue_popSlot (j : StackIndex) : spValue (popSlot j) = (j.val : Int) - 1 := by
  unfold popSlot
  split
  · simp [spValue, *]
  · simp only [spValue]; omega

theorem popSlot_pushSlot {p : Option StackIndex} {j : StackIndex} (h : pushSlot p = some j) : popSlot j = p := by
  cases p with
  | none => simp [pushSlot] at h; simp [popSlot, ← h]
  | some k =>
    simp only [pushSlot] at h
    split at h
    · cases h; simp [popSlot]
    · cases h

/-! Faults, samples, skips. -/

@[simp] theorem raise_eq (c : FaultLatch) (s : State) : raise c s = s.setFault c := rfl

@[simp] theorem sampled_eq (s : State) : s.sampled = s.setDraws (s.draws + 1) := rfl

theorem skipIf_eq (taken : Bool) (s : State) : skipIf taken s = s.setPc (if taken then s.pc + 2 else s.pc) := by
  cases taken <;> rfl

theorem skipIf_iff {taken : Bool} {p : Prop} [Decidable p] (h : taken = true ↔ p) (s : State) :
    skipIf taken s = s.setPc (if p then s.pc + 2 else s.pc) := by
  rw [skipIf_eq]
  by_cases hp : p
  · rw [if_pos hp, if_pos (h.2 hp)]
  · rw [if_neg hp, if_neg (fun ht => hp (h.1 ht))]

/-! Stores and operand bytes. -/

theorem State.memRead_mask (s : State) (a : Nat) : s.memRead (maskAddr a) = s.memRead a := by
  simp [State.memRead, Memory.readByte, maskAddr]

@[simp] theorem memStore_eq (s : State) (a : Nat) (bs : List Byte) :
    s.memStore a bs = s.setMem (s.mem.storeBytes a bs) := rfl

theorem operandByte_eq (s : State) (k : Nat) : s.operandByte k = s.mem.read (effAddr s.i k) := rfl

/-- The k-th byte of a run of stores at I, read at any address with the same low 12 bits. -/
theorem State.memRead_memStore_inside (s : State) (a q k : Nat) (bs : List Byte) (hlen : bs.length ≤ 4096)
    (hk : k < bs.length) (hq : maskAddr q = maskAddr (a + k)) : (s.memStore a bs).memRead q = bs[k] :=
  Memory.readByte_storeBytes_inside bs s.mem a q k hlen hk hq

theorem State.memRead_memStore_outside (s : State) (a q : Nat) (bs : List Byte)
    (h : ∀ k, k < bs.length → maskAddr q ≠ maskAddr (a + k)) : (s.memStore a bs).memRead q = s.memRead q :=
  Memory.readByte_storeBytes_outside bs s.mem a q h

/-! Keys. -/

theorem keyIndex_of_lt {b : Byte} (h : b.toNat < 16) : keyIndex b = some ⟨b.toNat, h⟩ := by simp [keyIndex, h]

theorem keyIndex_of_ge {b : Byte} (h : 16 ≤ b.toNat) : keyIndex b = none := by
  have : ¬b.toNat < 16 := by omega
  simp [keyIndex, this]

/-! The register group V0..Vx. -/

@[simp] theorem mem_regsUpTo (x r : Reg) : r ∈ regsUpTo x ↔ r ≤ x := by simp [regsUpTo]

theorem regsUpTo_length (x : Reg) : (regsUpTo x).length = x.val + 1 := by revert x; decide

theorem regsUpTo_get (x : Reg) (k : Nat) (h : k < (regsUpTo x).length) : ((regsUpTo x)[k]).val = k := by
  revert k
  revert x
  decide

theorem groupValues_length (s : State) (x : Reg) : (s.groupValues x).length = x.val + 1 := by
  simp [State.groupValues, regsUpTo_length]

theorem groupValues_get (s : State) (x r : Reg) (h : r ≤ x) :
    (s.groupValues x)[r.val]'(by rw [groupValues_length]; exact Nat.lt_succ_of_le h) = s.getV r := by
  have hlen : r.val < (regsUpTo x).length := by rw [regsUpTo_length]; exact Nat.lt_succ_of_le h
  have : (regsUpTo x)[r.val] = r := Fin.ext (regsUpTo_get x r.val hlen)
  simp [State.groupValues, this]

/-- Loading a list of registers writes each listed one with its operand byte and nothing else. -/
theorem getV_loadGroup (src : State) (rs : List Reg) (t : State) (r : Reg) :
    (loadGroup src rs t).getV r = if r ∈ rs then src.operandByte r.val else t.getV r := by
  induction rs generalizing t with
  | nil => simp [loadGroup]
  | cons q rest ih =>
    rw [loadGroup, ih]
    by_cases hr : r ∈ rest
    · simp [hr]
    · by_cases hq : r = q
      · simp [hq]
      · simp [hr, hq, State.getV_setV]

theorem loadGroup_eq (src : State) (rs : List Reg) (t : State) :
    loadGroup src rs t = { t with v := (loadGroup src rs t).v } := by
  induction rs generalizing t with
  | nil => rfl
  | cons q rest ih => rw [loadGroup, ih]; rfl

@[simp] theorem advanceI_eq (x : Reg) (s : State) : advanceI x s = s.setI (s.i + BitVec.ofNat 16 (x.val + 1)) := rfl

/-! Flags. -/

@[simp] theorem flagThenResult_eq (x : Reg) (flag result : Byte) (s : State) :
    flagThenResult x flag result s = (s.setV regVF flag).setV x result := rfl

theorem flagThenUpdate_eq (x : Reg) (flag : Byte) (f : Byte → Byte) (s : State) :
    flagThenUpdate x flag f s =
      (s.setV regVF flag).setV x (f (if x = regVF then flag else s.getV x)) := by
  simp [flagThenUpdate, State.getV_setV]

/-! Fetch and the held machine. -/

@[simp] theorem advancePc_eq (s : State) : s.advancePc = s.setPc (s.pc + 2) := rfl

theorem held_eq_false (s : State) : s.held = false ↔ s.fault = .none ∧ s.wait.active = false := by
  simp [State.held]

theorem stepEvent_of_held {s : State} (h : s.held = true) : stepEvent s = .next s := by simp [stepEvent, h]

theorem stepEvent_of_running {s : State} (h : s.held = false) :
    stepEvent s = exec (decode s.fetchWord) (s.setPc (s.pc + 2)) := by simp [stepEvent, h]

/-! Timers. -/

theorem countDown_toNat (b : Byte) : (countDown b).toNat = b.toNat - 1 := by
  unfold countDown
  split
  · simp [*]
  · rename_i h
    have : b.toNat ≠ 0 := fun e => h (BitVec.eq_of_toNat_eq (by simpa using e))
    have := b.isLt
    rw [BitVec.toNat_sub]
    simp
    omega

@[simp] theorem tickEvent_eq (s : State) : tickEvent s = (s.setDt (countDown s.dt)).setSt (countDown s.st) := rfl

/-- A batch writes the two timers only. -/
theorem tickBatch_frame (k : Nat) (s : State) : ∃ a b, tickBatch k s = (s.setDt a).setSt b := by
  induction k generalizing s with
  | zero => exact ⟨s.dt, s.st, rfl⟩
  | succ k ih =>
    obtain ⟨a, b, h⟩ := ih (tickEvent s)
    exact ⟨a, b, h⟩

/-! Keys going down. -/

theorem mem_risingEdges (old new : Vector Bool 16) (k : KeyCode) :
    k ∈ risingEdges old new ↔ old[k] = false ∧ new[k] = true := by
  simp [risingEdges]

@[simp] theorem keyTiebreak_nil : keyTiebreak [] = none := rfl

/-- The tie-break of this hardware answers the largest code of the list. -/
theorem keyTiebreak_eq_some (edges : List KeyCode) (k : KeyCode) (hk : k ∈ edges) (hmax : ∀ j ∈ edges, j.val ≤ k.val) :
    keyTiebreak edges = some k := by
  unfold keyTiebreak
  generalize hf : (fun (best : Option KeyCode) (k : KeyCode) =>
    match best with | none => some k | some b => some (if b < k then k else b)) = f
  suffices h : ∀ (l : List KeyCode) (best : Option KeyCode), (k ∈ l ∨ best = some k) → (∀ j ∈ l, j.val ≤ k.val) →
      (∀ b, best = some b → b.val ≤ k.val) → l.foldl f best = some k from
    h edges none (.inl hk) hmax (by simp)
  intro l
  induction l with
  | nil => intro best hb _ _; simpa using hb
  | cons j rest ih =>
    intro best hb hl hbest
    have hj := hl j (by simp)
    rw [List.foldl_cons]
    refine ih _ ?_ (fun q hq => hl q (by simp [hq])) ?_
    · subst hf
      cases best with
      | none => simpa [eq_comm, or_comm] using hb
      | some b =>
        have hbk := hbest b rfl
        simp only [List.mem_cons, Option.some.injEq] at hb ⊢
        rcases hb with (rfl | hr) | rfl
        · exact .inr (by split <;> first | rfl | (simp only [Fin.ext_iff, Fin.lt_def] at *; omega))
        · exact .inl hr
        · exact .inr (by rw [if_neg (by simp only [Fin.lt_def]; omega)])
    · subst hf
      cases best with
      | none => simpa using hj
      | some b =>
        have hbk := hbest b rfl
        simp only [Option.some.injEq]
        rintro _ rfl
        split <;> assumption

end Sys2Proof.Machine
end

