-- ==== Sys2Proof/Laws/Exec.lean ====
section
/-!
SUPPORT. The state each instruction answers, over the named updates: proofs cite these and unfold no meaning.
-/

namespace Sys2Proof.Machine

variable (s : State) (x y : Reg) (n : Nibble) (kk : Byte) (nnn : Addr12)

theorem exec_cls : exec .cls s = .next (s.setPix Display.blank) := rfl

theorem exec_ret_empty (h : s.sp = none) : exec .ret s = .next (s.setFault .stackUnderflow) := by
  change execRet s = _
  unfold execRet
  rw [h]
  rfl

theorem exec_ret_top {j : StackIndex} (h : s.sp = some j) :
    exec .ret s = .next ((s.setPc (s.getStack j)).setSp (popSlot j)) := by
  change execRet s = _
  unfold execRet
  rw [h]

theorem exec_sys : exec (.sys nnn) s = .next (s.setPc (immAddress nnn)) := rfl

theorem exec_jp : exec (.jp nnn) s = .next (s.setPc (immAddress nnn)) := rfl

theorem exec_call_full (h : pushSlot s.sp = none) : exec (.call nnn) s = .next (s.setFault .stackOverflow) := by
  change execCall nnn s = _
  unfold execCall
  rw [h]
  rfl

theorem exec_call_room {j : StackIndex} (h : pushSlot s.sp = some j) :
    exec (.call nnn) s = .next (((s.setSp (some j)).setStack j s.pc).setPc (immAddress nnn)) := by
  change execCall nnn s = _
  unfold execCall
  rw [h]

theorem exec_seVxKk :
    exec (.seVxKk x kk) s = .next (s.setPc (if s.getV x = kk then s.pc + 2 else s.pc)) :=
  congrArg Host.Outcome.next (skipIf_iff beq_iff_eq s)

theorem exec_sneVxKk :
    exec (.sneVxKk x kk) s = .next (s.setPc (if s.getV x ≠ kk then s.pc + 2 else s.pc)) :=
  congrArg Host.Outcome.next (skipIf_iff bne_iff_ne s)

theorem exec_seVxVy :
    exec (.seVxVy x y n) s = .next (s.setPc (if s.getV x = s.getV y then s.pc + 2 else s.pc)) :=
  congrArg Host.Outcome.next (skipIf_iff beq_iff_eq s)

theorem exec_sneVxVy :
    exec (.sneVxVy x y n) s = .next (s.setPc (if s.getV x ≠ s.getV y then s.pc + 2 else s.pc)) :=
  congrArg Host.Outcome.next (skipIf_iff bne_iff_ne s)

theorem exec_ldVxKk : exec (.ldVxKk x kk) s = .next (s.setV x kk) := rfl

theorem exec_addVxKk : exec (.addVxKk x kk) s = .next (s.setV x (s.getV x + kk)) := rfl

theorem exec_ldVxVy : exec (.ldVxVy x y) s = .next (s.setV x (s.getV y)) := rfl

theorem exec_orVxVy : exec (.orVxVy x y) s = .next (s.setV x (s.getV x ||| s.getV y)) := rfl

theorem exec_andVxVy : exec (.andVxVy x y) s = .next (s.setV x (s.getV x &&& s.getV y)) := rfl

theorem exec_xorVxVy : exec (.xorVxVy x y) s = .next (s.setV x (s.getV x ^^^ s.getV y)) := rfl

theorem exec_addVxVy :
    exec (.addVxVy x y) s =
      .next ((s.setV regVF (carryFlag (s.getV x) (s.getV y))).setV x (s.getV x + s.getV y)) := rfl

theorem exec_subVxVy :
    exec (.subVxVy x y) s =
      .next ((s.setV regVF (notBorrowFlag (s.getV x) (s.getV y))).setV x (s.getV x - s.getV y)) := rfl

theorem exec_subnVxVy :
    exec (.subnVxVy x y) s =
      .next ((s.setV regVF (notBorrowFlag (s.getV y) (s.getV x))).setV x (s.getV y - s.getV x)) := rfl

theorem exec_shrVx :
    exec (.shrVx x y) s =
      .next ((s.setV regVF (shrFlag (s.getV x))).setV x
        ((if x = regVF then shrFlag (s.getV x) else s.getV x) >>> 1)) := by
  exact congrArg Host.Outcome.next (flagThenUpdate_eq x _ _ s)

theorem shiftLeft_eq (raw : Bool) :
    shiftLeft raw x s =
      (s.setV regVF (shlFlag raw (s.getV x))).setV x
        ((if x = regVF then shlFlag raw (s.getV x) else s.getV x) <<< 1) := by
  exact flagThenUpdate_eq x _ _ s

theorem exec_shlVx : exec (.shlVx x y) s = .next (shiftLeft true x s) := rfl

theorem exec_nop8 : exec (.nop8 x y n) s = .next s := rfl

theorem exec_ldINnn : exec (.ldINnn nnn) s = .next (s.setI (immAddress nnn)) := rfl

theorem exec_jpV0 : exec (.jpV0 nnn) s = .next (s.setPc (indexedTarget nnn s)) := rfl

theorem exec_rnd : exec (.rnd x kk) s = .next ((s.setDraws (s.draws + 1)).setV x (s.rndByte &&& kk)) := rfl

theorem exec_drw :
    exec (.drw x y n) s =
      let c := drawRows (s.getV x) (s.getV y) 0 (spriteBytes s n.toNat) { pix := s.pix, hit := false }
      .next ((s.setPix c.pix).setV regVF (collisionFlag c.hit)) := rfl

theorem exec_skp_key {k : KeyCode} (h : keyIndex (s.getV x) = some k) :
    exec (.skp x) s = .next (s.setPc (if s.getKey k then s.pc + 2 else s.pc)) := by
  change execSkp x s = _
  unfold execSkp
  rw [h]
  exact congrArg Host.Outcome.next (skipIf_eq _ s)

theorem exec_skp_fault (h : keyIndex (s.getV x) = none) :
    exec (.skp x) s = .next (s.setFault .keyIndexOutOfRange) := by
  change execSkp x s = _
  unfold execSkp
  rw [h]
  rfl

theorem exec_sknp_key {k : KeyCode} (h : keyIndex (s.getV x) = some k) :
    exec (.sknp x) s = .next (s.setPc (if s.getKey k then s.pc else s.pc + 2)) := by
  change execSknp x s = _
  unfold execSknp
  rw [h]
  refine (congrArg Host.Outcome.next (skipIf_eq _ s)).trans ?_
  cases s.getKey k <;> rfl

theorem exec_sknp_fault (h : keyIndex (s.getV x) = none) :
    exec (.sknp x) s = .next (s.setFault .keyIndexOutOfRange) := by
  change execSknp x s = _
  unfold execSknp
  rw [h]
  rfl

theorem exec_nope : exec (.nope x kk) s = .next s := rfl

theorem exec_ldVxDt : exec (.ldVxDt x) s = .next (s.setV x s.dt) := rfl

theorem exec_ldVxK : exec (.ldVxK x) s = .next (s.setWait { active := true, target := x }) := rfl

theorem exec_ldDtVx : exec (.ldDtVx x) s = .next (s.setDt (s.getV x)) := rfl

theorem exec_ldStVx : exec (.ldStVx x) s = .next (s.setSt (s.getV x)) := rfl

theorem exec_addIVx :
    exec (.addIVx x) s =
      .next ((s.setV regVF (indexOverflowFlag (maskAddr s.i.toNat + (s.getV x).toNat))).setI
        (BitVec.ofNat 16 (maskAddr s.i.toNat + (s.getV x).toNat))) := rfl

theorem exec_ldFVx : exec (.ldFVx x) s = .next (s.setI (glyphAddress (s.getV x))) := rfl

theorem exec_ldBVx :
    exec (.ldBVx x) s = .next (s.setMem (s.mem.storeBytes s.i.toNat (decimalDigits (s.getV x)))) := rfl

theorem exec_ldMemVx :
    exec (.ldMemVx x) s =
      .next ((s.setMem (s.mem.storeBytes s.i.toNat (s.groupValues x))).setI (s.i + BitVec.ofNat 16 (x.val + 1))) := rfl

theorem exec_ldVxMem :
    exec (.ldVxMem x) s =
      .next ({ s with v := (loadGroup s (regsUpTo x) s).v }.setI (s.i + BitVec.ofNat 16 (x.val + 1))) :=
  congrArg (fun t => Host.Outcome.next (advanceI x t)) (loadGroup_eq s (regsUpTo x) s)

theorem exec_nopf : exec (.nopf x kk) s = .next s := rfl

end Sys2Proof.Machine
end

