-- ==== Sys2Proof/Laws/Fields.lean ====
section
/-!
SUPPORT. The fields of an encoded word, and the word of its fields: what the encoding claims rest on.
-/

namespace Sys2Proof

@[simp] theorem toReg_regNibble (r : Reg) : Nibble.toReg (regNibble r) = r := by
  apply Fin.ext
  simp [Nibble.toReg, regNibble]

@[simp] theorem regNibble_toReg (n : Nibble) : regNibble (Nibble.toReg n) = n := by
  apply BitVec.eq_of_toNat_eq
  simp [Nibble.toReg, regNibble]

/-! Format F-NNN. -/

@[simp] theorem fieldHi_encNnn (hi : Nibble) (nnn : Addr12) : fieldHi (encNnn hi nnn) = hi :=
  BitVec.extractLsb'_append_eq_left (a := hi) (b := nnn)

@[simp] theorem fieldNnn_encNnn (hi : Nibble) (nnn : Addr12) : fieldNnn (encNnn hi nnn) = nnn :=
  BitVec.extractLsb'_append_eq_right (a := hi) (b := nnn)

/-! Formats F-XKK and F-XFF. -/

theorem extract_high (hi x : Nibble) (kk : Byte) :
    BitVec.extractLsb' 12 4 ((hi ++ x) ++ kk : BitVec (4 + 4 + 8)) = hi ∧
      BitVec.extractLsb' 8 4 ((hi ++ x) ++ kk : BitVec (4 + 4 + 8)) = x := by
  constructor
  · rw [BitVec.extractLsb'_append_eq_of_le (by decide)]
    exact BitVec.extractLsb'_append_eq_left
  · rw [BitVec.extractLsb'_append_eq_of_le (by decide)]
    exact BitVec.extractLsb'_append_eq_right

@[simp] theorem fieldHi_encXKk (hi : Nibble) (x : Reg) (kk : Byte) : fieldHi (encXKk hi x kk) = hi :=
  (extract_high hi (regNibble x) kk).1

@[simp] theorem fieldX_encXKk (hi : Nibble) (x : Reg) (kk : Byte) : fieldX (encXKk hi x kk) = x :=
  (congrArg Nibble.toReg (extract_high hi (regNibble x) kk).2).trans (toReg_regNibble x)

@[simp] theorem fieldKk_encXKk (hi : Nibble) (x : Reg) (kk : Byte) : fieldKk (encXKk hi x kk) = kk :=
  BitVec.extractLsb'_append_eq_right (a := hi ++ regNibble x) (b := kk)

/-! Formats F-XYF and F-XYN: F-XKK with kk = y ∥ n (30_encoding.md R43). -/

theorem encXYN_eq_encXKk (hi : Nibble) (x y : Reg) (n : Nibble) :
    encXYN hi x y n = encXKk hi x (regNibble y ++ n) := rfl

@[simp] theorem fieldHi_encXYN (hi : Nibble) (x y : Reg) (n : Nibble) : fieldHi (encXYN hi x y n) = hi :=
  fieldHi_encXKk hi x _

@[simp] theorem fieldX_encXYN (hi : Nibble) (x y : Reg) (n : Nibble) : fieldX (encXYN hi x y n) = x :=
  fieldX_encXKk hi x _

theorem extract_low (a y n : Nibble) (b : Nibble) :
    BitVec.extractLsb' 4 4 ((a ++ b) ++ (y ++ n) : BitVec (4 + 4 + (4 + 4))) = y ∧
      BitVec.extractLsb' 0 4 ((a ++ b) ++ (y ++ n) : BitVec (4 + 4 + (4 + 4))) = n := by
  constructor
  · rw [BitVec.extractLsb'_append_eq_of_add_le (by decide)]
    exact BitVec.extractLsb'_append_eq_left
  · rw [BitVec.extractLsb'_append_eq_of_add_le (by decide)]
    exact BitVec.extractLsb'_append_eq_right

@[simp] theorem fieldY_encXYN (hi : Nibble) (x y : Reg) (n : Nibble) : fieldY (encXYN hi x y n) = y :=
  (congrArg Nibble.toReg (extract_low hi (regNibble y) n (regNibble x)).1).trans (toReg_regNibble y)

@[simp] theorem fieldN_encXYN (hi : Nibble) (x y : Reg) (n : Nibble) : fieldN (encXYN hi x y n) = n :=
  (extract_low hi (regNibble y) n (regNibble x)).2

/-! A word is put together again from its fields. -/

theorem append_extract {w v : Nat} (op : BitVec (w + v)) : op.extractLsb' v w ++ op.extractLsb' 0 v = op := by
  apply BitVec.eq_of_getLsbD_eq
  intro k hk
  simp only [BitVec.getLsbD_append, BitVec.getLsbD_extractLsb']
  by_cases h : k < v
  · simp [h]
  · have hv : v + (k - v) = k := by omega
    simp [h, hv]
    omega

theorem extract_extract (op : Word) (s l s' l' : Nat) (h : s' + l' ≤ l) :
    (op.extractLsb' s l).extractLsb' s' l' = op.extractLsb' (s + s') l' := by
  apply BitVec.eq_of_getLsbD_eq
  intro k hk
  have : s' + k < l := by omega
  simp [BitVec.getLsbD_extractLsb', this, Nat.add_assoc]

theorem encNnn_fields (op : Word) : encNnn (fieldHi op) (fieldNnn op) = op := append_extract (w := 4) (v := 12) op

theorem encXKk_fields (op : Word) : encXKk (fieldHi op) (fieldX op) (fieldKk op) = op := by
  have h : fieldHi op ++ op.extractLsb' 8 4 = op.extractLsb' 8 8 := by
    have := append_extract (w := 4) (v := 4) (op.extractLsb' 8 8)
    rw [extract_extract _ _ _ _ _ (by decide), extract_extract _ _ _ _ _ (by decide)] at this
    exact this
  unfold encXKk fieldX
  rw [regNibble_toReg]
  exact (congrArg (· ++ fieldKk op) h).trans (append_extract (w := 8) (v := 8) op)

theorem fieldKk_eq (op : Word) : fieldKk op = regNibble (fieldY op) ++ fieldN op := by
  have := append_extract (w := 4) (v := 4) (op.extractLsb' 0 8)
  rw [extract_extract _ _ _ _ _ (by decide), extract_extract _ _ _ _ _ (by decide)] at this
  unfold fieldY
  rw [regNibble_toReg]
  exact this.symm

theorem encXYN_fields (op : Word) : encXYN (fieldHi op) (fieldX op) (fieldY op) (fieldN op) = op := by
  rw [encXYN_eq_encXKk, ← fieldKk_eq]
  exact encXKk_fields op

end Sys2Proof
end

