-- ==== Sys2Proof/Laws/PerInstr.lean ====
section
/-!
SUPPORT. Family TableRow: the word of an instruction lies in the row of spec/opcode_table.json with the instruction's
mnemonic (30_encoding.md R46, R49). One lemma per constructor.
-/

namespace Sys2Proof

/-! The words of the formats under the masks of the table. -/

theorem nibble_and_ones (n : Nibble) : n &&& 15#4 = n := by revert n; decide

theorem byte_and_ones (b : Byte) : b &&& 255#8 = b := by revert b; decide

theorem encNnn_mask (hi : Nibble) (nnn : Addr12) : encNnn hi nnn &&& 0xF000 = encNnn hi 0 := by
  have h : (0xF000 : Word) = encNnn 0xF 0 := by decide
  rw [h]
  unfold encNnn
  rw [BitVec.and_append]
  simp [nibble_and_ones]

theorem encXKk_mask (hi : Nibble) (x : Reg) (kk : Byte) : encXKk hi x kk &&& 0xF000 = encXKk hi 0 0 := by
  have h : (0xF000 : Word) = encXKk 0xF 0 0 := by decide
  rw [h]
  unfold encXKk
  rw [BitVec.and_append, BitVec.and_append]
  simp [regNibble, nibble_and_ones]

theorem encXKk_maskKk (hi : Nibble) (x : Reg) (kk : Byte) : encXKk hi x kk &&& 0xF0FF = encXKk hi 0 kk := by
  have h : (0xF0FF : Word) = encXKk 0xF 0 0xFF := by decide
  rw [h]
  unfold encXKk
  rw [BitVec.and_append, BitVec.and_append]
  simp [regNibble, nibble_and_ones, byte_and_ones]

theorem encXYN_maskN (hi : Nibble) (x y : Reg) (n : Nibble) : encXYN hi x y n &&& 0xF00F = encXYN hi 0 0 n := by
  have h : (0xF00F : Word) = encXYN 0xF 0 0 0xF := by decide
  rw [h]
  unfold encXYN
  rw [BitVec.and_append, BitVec.and_append, BitVec.and_append]
  simp [regNibble, nibble_and_ones]

end Sys2Proof

/-- The instruction's word matches a row of the opcode table that bears the instruction's mnemonic. -/
def Sys2Proof.Laws.TableRow.Statement (i : Sys2Proof.Instr) : Prop :=
  ∃ row ∈ Sys2Proof.opcodeRows, row.mnemonic = i.mnemonic ∧ Sys2Proof.encode i &&& row.mask = row.pattern

namespace Sys2Proof.Laws.TableRow

theorem cls : Statement .cls :=
  ⟨⟨"CLS", 0xFFFF, 0x00E0⟩, by decide, rfl, by decide⟩

theorem ret : Statement .ret :=
  ⟨⟨"RET", 0xFFFF, 0x00EE⟩, by decide, rfl, by decide⟩

theorem sys (nnn : Addr12) : Statement (.sys nnn) :=
  ⟨⟨"SYS", 0xF000, 0x0000⟩, by decide, rfl, (encNnn_mask 0x0 nnn).trans (by decide)⟩

theorem jp (nnn : Addr12) : Statement (.jp nnn) :=
  ⟨⟨"JP", 0xF000, 0x1000⟩, by decide, rfl, (encNnn_mask 0x1 nnn).trans (by decide)⟩

theorem call (nnn : Addr12) : Statement (.call nnn) :=
  ⟨⟨"CALL", 0xF000, 0x2000⟩, by decide, rfl, (encNnn_mask 0x2 nnn).trans (by decide)⟩

theorem seVxKk (x : Reg) (kk : Byte) : Statement (.seVxKk x kk) :=
  ⟨⟨"SE_VX_KK", 0xF000, 0x3000⟩, by decide, rfl, (encXKk_mask 0x3 x kk).trans (by decide)⟩

theorem sneVxKk (x : Reg) (kk : Byte) : Statement (.sneVxKk x kk) :=
  ⟨⟨"SNE_VX_KK", 0xF000, 0x4000⟩, by decide, rfl, (encXKk_mask 0x4 x kk).trans (by decide)⟩

theorem seVxVy (x y : Reg) (n : Nibble) : Statement (.seVxVy x y n) :=
  ⟨⟨"SE_VX_VY", 0xF000, 0x5000⟩, by decide, rfl, (encXKk_mask 0x5 x _).trans (by decide)⟩

theorem ldVxKk (x : Reg) (kk : Byte) : Statement (.ldVxKk x kk) :=
  ⟨⟨"LD_VX_KK", 0xF000, 0x6000⟩, by decide, rfl, (encXKk_mask 0x6 x kk).trans (by decide)⟩

theorem addVxKk (x : Reg) (kk : Byte) : Statement (.addVxKk x kk) :=
  ⟨⟨"ADD_VX_KK", 0xF000, 0x7000⟩, by decide, rfl, (encXKk_mask 0x7 x kk).trans (by decide)⟩

theorem ldVxVy (x y : Reg) : Statement (.ldVxVy x y) :=
  ⟨⟨"LD_VX_VY", 0xF00F, 0x8000⟩, by decide, rfl, (encXYN_maskN 0x8 x y 0x0).trans (by decide)⟩

theorem orVxVy (x y : Reg) : Statement (.orVxVy x y) :=
  ⟨⟨"OR", 0xF00F, 0x8001⟩, by decide, rfl, (encXYN_maskN 0x8 x y 0x1).trans (by decide)⟩

theorem andVxVy (x y : Reg) : Statement (.andVxVy x y) :=
  ⟨⟨"AND", 0xF00F, 0x8002⟩, by decide, rfl, (encXYN_maskN 0x8 x y 0x2).trans (by decide)⟩

theorem xorVxVy (x y : Reg) : Statement (.xorVxVy x y) :=
  ⟨⟨"XOR", 0xF00F, 0x8003⟩, by decide, rfl, (encXYN_maskN 0x8 x y 0x3).trans (by decide)⟩

theorem addVxVy (x y : Reg) : Statement (.addVxVy x y) :=
  ⟨⟨"ADD_VX_VY", 0xF00F, 0x8004⟩, by decide, rfl, (encXYN_maskN 0x8 x y 0x4).trans (by decide)⟩

theorem subVxVy (x y : Reg) : Statement (.subVxVy x y) :=
  ⟨⟨"SUB", 0xF00F, 0x8005⟩, by decide, rfl, (encXYN_maskN 0x8 x y 0x5).trans (by decide)⟩

theorem shrVx (x y : Reg) : Statement (.shrVx x y) :=
  ⟨⟨"SHR", 0xF00F, 0x8006⟩, by decide, rfl, (encXYN_maskN 0x8 x y 0x6).trans (by decide)⟩

theorem subnVxVy (x y : Reg) : Statement (.subnVxVy x y) :=
  ⟨⟨"SUBN", 0xF00F, 0x8007⟩, by decide, rfl, (encXYN_maskN 0x8 x y 0x7).trans (by decide)⟩

theorem shlVx (x y : Reg) : Statement (.shlVx x y) :=
  ⟨⟨"SHL", 0xF00F, 0x800E⟩, by decide, rfl, (encXYN_maskN 0x8 x y 0xE).trans (by decide)⟩

theorem nop8 (x y : Reg) (n : Nibble) : Statement (.nop8 x y n) :=
  ⟨⟨"NOP8", 0xF000, 0x8000⟩, by decide, rfl, (encXKk_mask 0x8 x _).trans (by decide)⟩

theorem sneVxVy (x y : Reg) (n : Nibble) : Statement (.sneVxVy x y n) :=
  ⟨⟨"SNE_VX_VY", 0xF000, 0x9000⟩, by decide, rfl, (encXKk_mask 0x9 x _).trans (by decide)⟩

theorem ldINnn (nnn : Addr12) : Statement (.ldINnn nnn) :=
  ⟨⟨"LD_I_NNN", 0xF000, 0xA000⟩, by decide, rfl, (encNnn_mask 0xA nnn).trans (by decide)⟩

theorem jpV0 (nnn : Addr12) : Statement (.jpV0 nnn) :=
  ⟨⟨"JP_V0", 0xF000, 0xB000⟩, by decide, rfl, (encNnn_mask 0xB nnn).trans (by decide)⟩

theorem rnd (x : Reg) (kk : Byte) : Statement (.rnd x kk) :=
  ⟨⟨"RND", 0xF000, 0xC000⟩, by decide, rfl, (encXKk_mask 0xC x kk).trans (by decide)⟩

theorem drw (x y : Reg) (n : Nibble) : Statement (.drw x y n) :=
  ⟨⟨"DRW", 0xF000, 0xD000⟩, by decide, rfl, (encXKk_mask 0xD x _).trans (by decide)⟩

theorem skp (x : Reg) : Statement (.skp x) :=
  ⟨⟨"SKP", 0xF0FF, 0xE09E⟩, by decide, rfl, (encXKk_maskKk 0xE x 0x9E).trans (by decide)⟩

theorem sknp (x : Reg) : Statement (.sknp x) :=
  ⟨⟨"SKNP", 0xF0FF, 0xE0A1⟩, by decide, rfl, (encXKk_maskKk 0xE x 0xA1).trans (by decide)⟩

theorem nope (x : Reg) (kk : Byte) : Statement (.nope x kk) :=
  ⟨⟨"NOPE", 0xF000, 0xE000⟩, by decide, rfl, (encXKk_mask 0xE x kk).trans (by decide)⟩

theorem ldVxDt (x : Reg) : Statement (.ldVxDt x) :=
  ⟨⟨"LD_VX_DT", 0xF0FF, 0xF007⟩, by decide, rfl, (encXKk_maskKk 0xF x 0x07).trans (by decide)⟩

theorem ldVxK (x : Reg) : Statement (.ldVxK x) :=
  ⟨⟨"LD_VX_K", 0xF0FF, 0xF00A⟩, by decide, rfl, (encXKk_maskKk 0xF x 0x0A).trans (by decide)⟩

theorem ldDtVx (x : Reg) : Statement (.ldDtVx x) :=
  ⟨⟨"LD_DT_VX", 0xF0FF, 0xF015⟩, by decide, rfl, (encXKk_maskKk 0xF x 0x15).trans (by decide)⟩

theorem ldStVx (x : Reg) : Statement (.ldStVx x) :=
  ⟨⟨"LD_ST_VX", 0xF0FF, 0xF018⟩, by decide, rfl, (encXKk_maskKk 0xF x 0x18).trans (by decide)⟩

theorem addIVx (x : Reg) : Statement (.addIVx x) :=
  ⟨⟨"ADD_I_VX", 0xF0FF, 0xF01E⟩, by decide, rfl, (encXKk_maskKk 0xF x 0x1E).trans (by decide)⟩

theorem ldFVx (x : Reg) : Statement (.ldFVx x) :=
  ⟨⟨"LD_F_VX", 0xF0FF, 0xF029⟩, by decide, rfl, (encXKk_maskKk 0xF x 0x29).trans (by decide)⟩

theorem ldBVx (x : Reg) : Statement (.ldBVx x) :=
  ⟨⟨"LD_B_VX", 0xF0FF, 0xF033⟩, by decide, rfl, (encXKk_maskKk 0xF x 0x33).trans (by decide)⟩

theorem ldMemVx (x : Reg) : Statement (.ldMemVx x) :=
  ⟨⟨"LD_MEM_VX", 0xF0FF, 0xF055⟩, by decide, rfl, (encXKk_maskKk 0xF x 0x55).trans (by decide)⟩

theorem ldVxMem (x : Reg) : Statement (.ldVxMem x) :=
  ⟨⟨"LD_VX_MEM", 0xF0FF, 0xF065⟩, by decide, rfl, (encXKk_maskKk 0xF x 0x65).trans (by decide)⟩

theorem nopf (x : Reg) (kk : Byte) : Statement (.nopf x kk) :=
  ⟨⟨"NOPF", 0xF000, 0xF000⟩, by decide, rfl, (encXKk_mask 0xF x kk).trans (by decide)⟩

end Sys2Proof.Laws.TableRow
end

