-- ==== Sys2Proof/Laws/Raster.lean ====
section
/-!
SUPPORT. The rasteriser: one pixel and one row. Every display operation says at each pixel what it leaves there.
-/

namespace Sys2Proof.Machine

@[simp] theorem Display.pixel_blank (row : Fin 32) (col : Fin 64) : Display.blank.pixel row col = false := by
  simp [Display.blank, Display.pixel]

theorem Display.pixel_flip (p : Display) (row : Fin 32) (col : Fin 64) (r : Fin 32) (c : Fin 64) :
    (p.flip row col).pixel r c = if r = row ∧ c = col then !p.pixel r c else p.pixel r c := by
  by_cases hr : r = row
  · subst hr
    by_cases hc : c = col
    · subst hc
      simp [Display.flip, Display.pixel]
    · have : col.val ≠ c.val := fun e => hc (Fin.ext e.symm)
      simp [Display.flip, Display.pixel, hc, this]
  · have : row.val ≠ r.val := fun e => hr (Fin.ext e.symm)
    simp [Display.flip, Display.pixel, hr, this]

/-- Drawing one set pixel. -/
theorem drawPixel_spec (row : Fin 32) (col : Fin 64) (c : Canvas) :
    (∀ r q, (drawPixel row col c).pix.pixel r q = if r = row ∧ q = col then !c.pix.pixel r q else c.pix.pixel r q) ∧
      (drawPixel row col c).hit = (c.hit || c.pix.pixel row col) :=
  ⟨fun r q => Display.pixel_flip c.pix row col r q, rfl⟩

/-! One row: its eight columns are distinct. -/

/-- A set pixel of a row byte drawn at column vx lies on column q. -/
def rowCovers (vx sprite : Byte) (q : Fin 64) (bs : List Nat) : Bool :=
  bs.any (fun b => spriteBit sprite b && decide (spriteCol vx b = q))

/-- A set pixel of a row byte drawn at column vx lies on a lit pixel of a row. -/
def rowHits (vx sprite : Byte) (row : Fin 32) (p : Display) (bs : List Nat) : Bool :=
  bs.any (fun b => spriteBit sprite b && p.pixel row (spriteCol vx b))

theorem rowCovers_cons (vx sprite : Byte) (q : Fin 64) (b : Nat) (bs : List Nat) :
    rowCovers vx sprite q (b :: bs) = (spriteBit sprite b && decide (spriteCol vx b = q) || rowCovers vx sprite q bs) :=
  List.any_cons

theorem spriteCol_inj (vx : Byte) {a b : Nat} (ha : a < 8) (hb : b < 8) (h : spriteCol vx a = spriteCol vx b) :
    a = b := by
  have := congrArg Fin.val h
  simp only [spriteCol, Fin.ofNat] at this
  omega

theorem drawPixels_spec (row : Fin 32) (vx sprite : Byte) (bs : List Nat) (hb : ∀ b ∈ bs, b < 8) (hd : bs.Nodup)
    (c : Canvas) :
    let d := bs.foldl (fun c b => if spriteBit sprite b then drawPixel row (spriteCol vx b) c else c) c
    (∀ r q, d.pix.pixel r q = (c.pix.pixel r q ^^ (decide (r = row) && rowCovers vx sprite q bs))) ∧
      d.hit = (c.hit || rowHits vx sprite row c.pix bs) := by
  induction bs generalizing c with
  | nil => simp [rowCovers, rowHits]
  | cons b rest ih =>
    rw [List.nodup_cons] at hd
    have ih := ih (fun a ha => hb a (by simp [ha])) hd.2
    by_cases hs : spriteBit sprite b = true
    · obtain ⟨hp, hh⟩ := drawPixel_spec row (spriteCol vx b) c
      have hnot : ∀ a ∈ rest, spriteCol vx a ≠ spriteCol vx b := fun a ha e =>
        hd.1 (spriteCol_inj vx (hb a (by simp [ha])) (hb b (by simp)) e ▸ ha)
      obtain ⟨ihp, ihh⟩ := ih (drawPixel row (spriteCol vx b) c)
      simp only [List.foldl_cons, hs, if_true]
      refine ⟨fun r q => ?_, ?_⟩
      · rw [ihp, hp]
        by_cases hr : r = row
        · by_cases hq : q = spriteCol vx b
          · have : rowCovers vx sprite q rest = false := by
              simp only [rowCovers, List.any_eq_false, Bool.and_eq_true, decide_eq_true_eq, not_and]
              exact fun a ha _ e => hnot a ha (e.trans hq)
            subst hq
            simp [this, hr, rowCovers_cons, hs]
          · have : ¬spriteCol vx b = q := fun e => hq e.symm
            simp [hr, hq, rowCovers_cons, hs, this]
        · simp [hr]
      · rw [ihh, hh]
        have : rowHits vx sprite row (drawPixel row (spriteCol vx b) c).pix rest = rowHits vx sprite row c.pix rest := by
          rw [Bool.eq_iff_iff]
          simp only [rowHits, List.any_eq_true]
          refine exists_congr fun a => and_congr_right fun ha => ?_
          rw [hp, if_neg (fun h => hnot a ha h.2)]
        rw [this]
        simp [rowHits, hs, Bool.or_assoc]
    · simp only [List.foldl_cons, hs]
      simpa [rowCovers, rowHits, hs] using ih c

/-- One sprite row inverts exactly the pixels under its set bits and hits where one of them was lit. -/
theorem drawRow_spec (row : Fin 32) (vx sprite : Byte) (c : Canvas) :
    (∀ r q, (drawRow row vx sprite c).pix.pixel r q =
        (c.pix.pixel r q ^^ (decide (r = row) && rowCovers vx sprite q (List.range 8)))) ∧
      (drawRow row vx sprite c).hit = (c.hit || rowHits vx sprite row c.pix (List.range 8)) :=
  drawPixels_spec row vx sprite (List.range 8) (by simp) List.nodup_range c

/-! The rows of a sprite: at most 32 of them are distinct. -/

theorem spriteRow_inj (vy : Byte) {a b : Nat} (h : spriteRow vy a = spriteRow vy b) (hab : a < b) (hlt : b < a + 32) :
    False := by
  have := congrArg Fin.val h
  simp only [spriteRow, Fin.ofNat] at this
  omega

/-- Row byte k of a sprite, drawn from row number r on, covers pixel (row, q). -/
def spriteCoversFrom (vx vy : Byte) (r : Nat) (sprites : List Byte) (row : Fin 32) (q : Fin 64) : Prop :=
  ∃ k, ∃ h : k < sprites.length, spriteRow vy (r + k) = row ∧ rowCovers vx sprites[k] q (List.range 8) = true

theorem spriteCoversFrom_cons (vx vy : Byte) (r : Nat) (b : Byte) (rest : List Byte) (row : Fin 32) (q : Fin 64) :
    spriteCoversFrom vx vy r (b :: rest) row q ↔
      (spriteRow vy r = row ∧ rowCovers vx b q (List.range 8) = true) ∨
        spriteCoversFrom vx vy (r + 1) rest row q := by
  constructor
  · rintro ⟨k, h, hrow, hcov⟩
    cases k with
    | zero => exact .inl ⟨by simpa using hrow, by simpa using hcov⟩
    | succ k =>
      refine .inr ⟨k, by simpa using h, ?_, by simpa using hcov⟩
      rw [Nat.add_assoc, Nat.add_comm 1 k]
      exact hrow
  · rintro (⟨hrow, hcov⟩ | ⟨k, h, hrow, hcov⟩)
    · exact ⟨0, by simp, by simpa using hrow, by simpa using hcov⟩
    · refine ⟨k + 1, by simpa using h, ?_, by simpa using hcov⟩
      rw [Nat.add_assoc, Nat.add_comm 1 k] at hrow
      exact hrow

/-- A sprite of at most 32 rows inverts exactly the pixels it covers and hits where one of them was lit. -/
theorem drawRows_spec (vx vy : Byte) (sprites : List Byte) (r : Nat) (hlen : sprites.length ≤ 32) (c : Canvas) :
    (∀ row q, (spriteCoversFrom vx vy r sprites row q → (drawRows vx vy r sprites c).pix.pixel row q = !c.pix.pixel row q) ∧
        (¬spriteCoversFrom vx vy r sprites row q → (drawRows vx vy r sprites c).pix.pixel row q = c.pix.pixel row q)) ∧
      ((drawRows vx vy r sprites c).hit = true ↔
        c.hit = true ∨ ∃ row q, spriteCoversFrom vx vy r sprites row q ∧ c.pix.pixel row q = true) := by
  induction sprites generalizing r c with
  | nil => simp [drawRows, spriteCoversFrom]
  | cons b rest ih =>
    simp only [List.length_cons] at hlen
    obtain ⟨hp, hh⟩ := drawRow_spec (spriteRow vy r) vx b c
    obtain ⟨ihp, ihh⟩ := ih (r + 1) (by omega) (drawRow (spriteRow vy r) vx b c)
    have hout : ∀ q, ¬spriteCoversFrom vx vy (r + 1) rest (spriteRow vy r) q := by
      rintro q ⟨k, hk, hrow, -⟩
      exact spriteRow_inj vy hrow.symm (by omega) (by omega)
    have hsame : ∀ row q, spriteCoversFrom vx vy (r + 1) rest row q →
        (drawRow (spriteRow vy r) vx b c).pix.pixel row q = c.pix.pixel row q := by
      intro row q hcov
      have : row ≠ spriteRow vy r := fun e => hout q (e ▸ hcov)
      simp [hp, this]
    refine ⟨fun row q => ?_, ?_⟩
    · rw [spriteCoversFrom_cons]
      simp only [drawRows]
      by_cases hrest : spriteCoversFrom vx vy (r + 1) rest row q
      · simp [hrest, (ihp row q).1 hrest, hsame row q hrest]
      · rw [(ihp row q).2 hrest, hp]
        by_cases hrow : row = spriteRow vy r
        · by_cases hc : rowCovers vx b q (List.range 8) = true
          · simp [hrow, hc]
          · simp only [hrow, hc, decide_true, Bool.true_and]
            simp [hout]
        · have : ¬spriteRow vy r = row := fun e => hrow e.symm
          simp [hrow, this, hrest]
    · simp only [drawRows]
      rw [ihh, hh]
      simp only [Bool.or_eq_true]
      constructor
      · rintro ((h | h) | ⟨row, q, hcov, hlit⟩)
        · exact .inl h
        · obtain ⟨j, hj, hbit⟩ := List.any_eq_true.1 h
          rw [Bool.and_eq_true] at hbit
          refine .inr ⟨spriteRow vy r, spriteCol vx j, (spriteCoversFrom_cons ..).2 (.inl ⟨rfl, ?_⟩), hbit.2⟩
          exact List.any_eq_true.2 ⟨j, hj, by simp [hbit.1]⟩
        · exact .inr ⟨row, q, (spriteCoversFrom_cons ..).2 (.inr hcov), (hsame row q hcov) ▸ hlit⟩
      · rintro (h | ⟨row, q, hcov, hlit⟩)
        · exact .inl (.inl h)
        · rcases (spriteCoversFrom_cons ..).1 hcov with ⟨hrow, hc⟩ | hrest
          · obtain ⟨j, hj, hbit⟩ := List.any_eq_true.1 hc
            simp only [Bool.and_eq_true, decide_eq_true_eq] at hbit
            refine .inl (.inr (List.any_eq_true.2 ⟨j, hj, ?_⟩))
            simp [hbit.1, hbit.2, hrow, hlit]
          · exact .inr ⟨row, q, hrest, (hsame row q hrest).symm ▸ hlit⟩

end Sys2Proof.Machine
end

