-- ==== Sys2Proof/Laws/Step.lean ====
section
/-!
SUPPORT. What one step can do: the inversion of the step into its cases, of Step(rnd), and of the two latches and the
memory across an instruction; runs of the machine behind Host.Core, step by step. Every invariant is derived from
these.
-/

namespace Sys2Proof.Machine

theorem stepUnder_of_cons (seq : Nat → Event) {s : State} {e : Event} {rest : List Event} (h : s.agenda = e :: rest) :
    stepUnder seq s = issue e (s.setAgenda rest) := by simp [stepUnder, State.takeEvent, h]

theorem stepUnder_of_free (seq : Nat → Event) {s : State} {k : Nat} (h : s.agenda = []) (he : s.env = .free k) :
    stepUnder seq s = issue (seq k) (s.setEnv (.free (k + 1))) := by simp [stepUnder, State.takeEvent, h, he]

theorem step_of_steps {s : State} (h : s.agenda = []) (he : s.env = .steps) : step s = stepEvent s := by
  simp [step, stepUnder, State.takeEvent, h, he]

theorem step_of_cons {s : State} {e : Event} {rest : List Event} (h : s.agenda = e :: rest) :
    step s = issue e (s.setAgenda rest) := stepUnder_of_cons Config.freeEvent h

/-- A step is the upcoming event on the same block (only the agenda and the environment's place may move), or a Step. -/
theorem step_of_upcoming (s : State) :
    (s.upcoming = none ∧ s.agenda = [] ∧ step s = stepEvent s) ∨
      ∃ e es m, s.upcoming = some e ∧ step s = issue e ((s.setAgenda es).setEnv m) := by
  cases ha : s.agenda with
  | cons e rest =>
    exact .inr ⟨e, rest, s.env, by simp [State.upcoming, State.takeEvent, ha], step_of_cons ha⟩
  | nil =>
    cases he : s.env with
    | steps => exact .inl ⟨by simp [State.upcoming, State.takeEvent, ha, he], rfl, step_of_steps ha he⟩
    | free k =>
      refine .inr ⟨Config.freeEvent k, [], .free (k + 1), by simp [State.upcoming, State.takeEvent, ha, he], ?_⟩
      rw [step, stepUnder_of_free _ ha he, ← ha]
      rfl

/-- A Step that answers a next state: the machine was held and stays as it is, or it ran one instruction. -/
theorem stepEvent_next {s t : State} (h : stepEvent s = .next t) :
    (s.held = true ∧ t = s) ∨
      (s.fault = .none ∧ s.wait.active = false ∧ exec (decode s.fetchWord) (s.setPc (s.pc + 2)) = .next t) := by
  by_cases hh : s.held = true
  · rw [stepEvent_of_held hh] at h
    injection h with h
    exact .inl ⟨hh, h.symm⟩
  · have hh : s.held = false := by simpa using hh
    rw [stepEvent_of_running hh] at h
    obtain ⟨hf, hw⟩ := (held_eq_false s).1 hh
    exact .inr ⟨hf, hw, h⟩

theorem stepWith_next {rnd : Byte} {s t : State} (h : stepWith rnd s = .next t) :
    ∃ u, stepEvent (s.setRndPort (some rnd)) = .next u ∧ t = u.setRndPort s.rndPort := by
  unfold stepWith at h
  split at h
  · rename_i u hu
    injection h with h
    exact ⟨u, hu, h.symm⟩
  · cases h
  · cases h

theorem resetEvent_next {rom : List Byte} {s t : State} (h : resetEvent rom s = .next t) :
    rom.length ≤ 3584 ∧ t = s.boot font rom := by
  unfold resetEvent at h
  split at h
  · injection h with h
    exact ⟨‹_›, h.symm⟩
  · cases h

/-- Every instruction answers a next state of one of these shapes: the two with a fault, a store, or neither; the
memory and the two latches are named in each. -/
theorem exec_cases {i : Instr} {s t : State} (h : exec i s = .next t) :
    (t.mem = s.mem ∧ t.fault = s.fault ∧ t.wait = s.wait) ∨
      (t.mem = s.mem ∧ t.wait = s.wait ∧ t.fault ≠ .none) ∨
      (t.mem = s.mem ∧ t.fault = s.fault ∧ ∃ x, i = .ldVxK x ∧ t.wait = { active := true, target := x }) ∨
      (t.fault = s.fault ∧ t.wait = s.wait ∧ ∃ a bs, t.mem = s.mem.storeBytes a bs) := by
  cases i
  case ret =>
    cases hs : s.sp with
    | none => rw [exec_ret_empty s hs] at h; injection h with h; subst h; simp
    | some j => rw [exec_ret_top s hs] at h; injection h with h; subst h; simp
  case call nnn =>
    cases hs : pushSlot s.sp with
    | none => rw [exec_call_full s nnn hs] at h; injection h with h; subst h; simp
    | some j => rw [exec_call_room s nnn hs] at h; injection h with h; subst h; simp
  case skp x =>
    cases hk : keyIndex (s.getV x) with
    | none => rw [exec_skp_fault s x hk] at h; injection h with h; subst h; simp
    | some k => rw [exec_skp_key s x hk] at h; injection h with h; subst h; simp
  case sknp x =>
    cases hk : keyIndex (s.getV x) with
    | none => rw [exec_sknp_fault s x hk] at h; injection h with h; subst h; simp
    | some k => rw [exec_sknp_key s x hk] at h; injection h with h; subst h; simp
  case ldVxK x =>
    rw [exec_ldVxK] at h
    injection h with h
    subst h
    exact .inr (.inr (.inl ⟨rfl, rfl, x, rfl, rfl⟩))
  case ldBVx x =>
    rw [exec_ldBVx] at h
    injection h with h
    subst h
    exact .inr (.inr (.inr ⟨rfl, rfl, _, _, rfl⟩))
  case ldMemVx x =>
    rw [exec_ldMemVx] at h
    injection h with h
    subst h
    exact .inr (.inr (.inr ⟨rfl, rfl, _, _, rfl⟩))
  all_goals
    simp only [exec_cls, exec_sys, exec_jp, exec_seVxKk, exec_sneVxKk, exec_seVxVy, exec_sneVxVy, exec_ldVxKk,
      exec_addVxKk, exec_ldVxVy, exec_orVxVy, exec_andVxVy, exec_xorVxVy, exec_addVxVy, exec_subVxVy, exec_subnVxVy,
      exec_shrVx, exec_shlVx, shiftLeft_eq, exec_nop8, exec_ldINnn, exec_jpV0, exec_rnd, exec_drw, exec_nope,
      exec_ldVxDt, exec_ldDtVx, exec_ldStVx, exec_addIVx, exec_ldFVx, exec_ldVxMem, exec_nopf,
      Host.Outcome.next.injEq] at h
    subst h
    simp

/-! Runs of several steps. -/

@[simp] theorem run_zero (s : State) : Host.Core.run Sys2Proof.core 0 s = .next s := rfl

theorem core_run_next (M : Host.Core) {s t : M.State} (k : Nat) (h : M.step s = .next t) :
    M.run (k + 1) s = M.run k t := by
  simp only [Host.Core.run, h]

theorem core_run_refused (M : Host.Core) {s : M.State} {r : M.Refusal} (k : Nat) (h : M.step s = .refused r) :
    M.run (k + 1) s = .refused r := by
  simp only [Host.Core.run, h]

theorem run_succ_of_next {s t : State} (k : Nat) (h : step s = .next t) :
    Host.Core.run Sys2Proof.core (k + 1) s = Host.Core.run Sys2Proof.core k t :=
  core_run_next Sys2Proof.core k h

theorem run_succ_of_refused {s : State} {r : Refusal} (k : Nat) (h : step s = .refused r) :
    Host.Core.run Sys2Proof.core (k + 1) s = .refused r :=
  core_run_refused Sys2Proof.core k h

/-- A state that a step does not change is not changed by any number of steps. -/
theorem run_of_fixed {s : State} (h : step s = .next s) (k : Nat) : Host.Core.run Sys2Proof.core k s = .next s := by
  induction k with
  | zero => rfl
  | succ k ih => exact (run_succ_of_next k h).trans ih

end Sys2Proof.Machine
end

