-- ==== Sys2Proof/Tests/Slice0.lean ====
section
/-!
SUPPORT. Tests: ill-formed terms that WellFormed refuses, one word per constructor written out bit by bit from the
patterns of 30_encoding.md R46 and R49, the vectors of 95_test_vectors.md on single steps (named after their ids),
and for each obligation with hypotheses a concrete state that meets them.
-/

namespace Sys2Proof.Tests

open Sys2Proof.Machine

/-! Helpers: a start state from the reset state, and one Step on a word placed at PC. -/

/-- One step with the 16-bit word `w` at PC. -/
def after (w : Nat) (s : State) : Option State :=
  match step (s.withFetchWord 16 w) with
  | .next t => some t
  | .fault _ => none
  | .refused _ => none

/-- One event. -/
def afterEvent (e : Event) (s : State) : Option State :=
  match issue e s with
  | .next t => some t
  | .fault _ => none
  | .refused _ => none

def start : State := State.reset

/-- Levels with the listed keys down. -/
def levels (down : List KeyCode) : Vector Bool 16 := Vector.ofFn (fun k => decide (k ∈ down))

def waitFor (x : Reg) (s : State) : State := s.setWait { active := true, target := x }

/-- Bytes at 0x300 and I pointing there. -/
def sprite (bs : List Byte) (s : State) : State := (s.setI 0x300).memStore 0x300 bs

/-- Lit pixels. -/
def lit (ps : List (Fin 32 × Fin 64)) (s : State) : State :=
  ps.foldl (fun s p => s.setPix (s.pix.flip p.1 p.2)) s

/-! WellFormed refuses what no word decodes to. -/

theorem test_sys_00E0_is_ill_formed : Instr.wellFormed (.sys 0x0E0) = false := by decide

theorem test_sys_00EE_is_ill_formed : Instr.wellFormed (.sys 0x0EE) = false := by decide

theorem test_nop8_of_a_used_nibble_is_ill_formed :
    Instr.wellFormed (.nop8 1 2 0x3) = false ∧ Instr.wellFormed (.nop8 1 2 0xE) = false := by decide

theorem test_nope_of_a_used_byte_is_ill_formed :
    Instr.wellFormed (.nope 1 0x9E) = false ∧ Instr.wellFormed (.nope 1 0xA1) = false := by decide

theorem test_nopf_of_a_used_byte_is_ill_formed :
    Instr.wellFormed (.nopf 1 0x65) = false ∧ Instr.wellFormed (.nopf 1 0x07) = false := by decide

/-! Decoding, from words written out bit by bit. -/

theorem test_decode_family0 :
    decode 0b0000000011100000 = .cls ∧ decode 0b0000000011101110 = .ret ∧ decode 0b0000000111100000 = .sys 0x1E0 ∧
    decode 0b0000000011100001 = .sys 0x0E1 ∧ decode 0b0000111111101110 = .sys 0xFEE := by decide

theorem test_decode_jumps :
    decode 0b0001001000110100 = .jp 0x234 ∧ decode 0b0010101010111100 = .call 0xABC ∧
    decode 0b1011001100000000 = .jpV0 0x300 := by decide

theorem test_decode_skips :
    decode 0b0011010110100111 = .seVxKk 5 0xA7 ∧ decode 0b0100010110100111 = .sneVxKk 5 0xA7 ∧
    decode 0b0101101010110000 = .seVxVy 0xA 0xB 0 ∧ decode 0b0101001101000001 = .seVxVy 3 4 1 ∧
    decode 0b1001001101000101 = .sneVxVy 3 4 5 := by decide

theorem test_decode_loads_and_immediates :
    decode 0b0110101000101100 = .ldVxKk 0xA 0x2C ∧ decode 0b0111000100000010 = .addVxKk 1 0x02 ∧
    decode 0b1100001100001111 = .rnd 3 0x0F ∧ decode 0b1010111111111111 = .ldINnn 0xFFF := by decide

theorem test_decode_family8_results :
    decode 0b1000001001010000 = .ldVxVy 2 5 ∧ decode 0b1000001001010001 = .orVxVy 2 5 ∧
    decode 0b1000001001010010 = .andVxVy 2 5 ∧ decode 0b1000001001010011 = .xorVxVy 2 5 := by decide

theorem test_decode_family8_flags :
    decode 0b1000001001010100 = .addVxVy 2 5 ∧ decode 0b1000001001010101 = .subVxVy 2 5 ∧
    decode 0b1000101001110110 = .shrVx 0xA 7 ∧ decode 0b1000001001010111 = .subnVxVy 2 5 ∧
    decode 0b1000001001011110 = .shlVx 2 5 := by decide

theorem test_decode_family8_reserved :
    decode 0b1000000100101000 = .nop8 1 2 8 ∧ decode 0b1000000100101101 = .nop8 1 2 0xD ∧
    decode 0b1000000100101111 = .nop8 1 2 0xF := by decide

theorem test_decode_draw : decode 0b1101000100100011 = .drw 1 2 3 := by decide

theorem test_decode_familyE :
    decode 0b1110010110011110 = .skp 5 ∧ decode 0b1110010110100001 = .sknp 5 ∧
    decode 0b1110010100000000 = .nope 5 0x00 := by decide

theorem test_decode_familyF_timers_and_keys :
    decode 0b1111001100000111 = .ldVxDt 3 ∧ decode 0b1111001100001010 = .ldVxK 3 ∧
    decode 0b1111001100010101 = .ldDtVx 3 ∧ decode 0b1111001100011000 = .ldStVx 3 := by decide

theorem test_decode_familyF_index :
    decode 0b1111001000011110 = .addIVx 2 ∧ decode 0b1111001000101001 = .ldFVx 2 ∧
    decode 0b1111001000110011 = .ldBVx 2 ∧ decode 0b1111001001010101 = .ldMemVx 2 ∧
    decode 0b1111001001100101 = .ldVxMem 2 ∧ decode 0b1111001011111111 = .nopf 2 0xFF := by decide

/-- The host's numbering of a row's bits: one 16-bit word; a longer row has no instruction. -/
theorem test_decodeTableWord :
    decodeTableWord 16 0x8014 = some (.addVxVy 0 1) ∧ decodeTableWord 32 0x8014 = none := by decide

/-- Two bytes are a word, the first the more significant (20_memory.md R30); one byte is none. -/
theorem test_decodeBytes :
    decodeBytes [0x6A, 0x2C, 0x77] = .ok (.ldVxKk 0xA 0x2C, [0x77]) ∧ decodeBytes [0x6A] = .error (.truncated 1) :=
  ⟨rfl, rfl⟩

/-! Fetch and PC. -/

theorem test_F1_fetch_wraps_byte_by_byte :
    (after 0x6A2C (start.setPc 0x0FFF)).map (fun t => (t.getV 0xA, t.pc)) = some (0x2C, 0x1001) := by decide

theorem test_F2_pc_wraps :
    (after 0x6A2C (start.setPc 0xFFFE)).map (fun t => (t.getV 0xA, t.pc)) = some (0x2C, 0x0000) := by decide

theorem test_F15_wait_holds : step ((waitFor 3 start).setPc 0x202) = .next ((waitFor 3 start).setPc 0x202) := by rfl

theorem test_F16_fault_holds :
    step ((start.setFault .stackUnderflow).setPc 0x202) = .next ((start.setFault .stackUnderflow).setPc 0x202) := by
  rfl

/-! Control transfer. -/

theorem test_F5_sys : (after 0x0000 start).map (fun t => (t.pc, t.sp)) = some (0, none) := by decide

theorem test_F6_01E0_is_no_clear :
    (after 0x01E0 (lit [(3, 4)] start)).map (fun t => (t.pc, t.getPixel 3 4)) = some (0x1E0, true) := by decide

theorem test_C1_jp : (after 0x1ABC start).map State.pc = some 0xABC := by decide

theorem test_C4_call_sixteenth_level :
    (after 0x2300 ((start.setPc 0x204).setSp (some 14))).map (fun t => (t.pc, t.sp, t.getStack 15, t.fault)) =
      some (0x300, some 15, 0x206, .none) := by decide

theorem test_C5_call_overflow :
    (after 0x2300 ((start.setPc 0x204).setSp (some 15))).map (fun t => (t.pc, t.sp, t.getStack 15, t.fault)) =
      some (0x206, some 15, 0, .stackOverflow) := by decide

theorem test_C7_ret_pops_unmasked :
    (after 0x00EE ((start.setSp (some 3)).setStack 3 0x10FE)).map (fun t => (t.pc, t.sp, t.getStack 3)) =
      some (0x10FE, some 2, 0x10FE) := by decide

theorem test_C8_ret_underflow :
    (after 0x00EE start).map (fun t => (t.pc, t.sp, t.fault)) = some (0x202, none, .stackUnderflow) := by decide

theorem test_C9_C10_se_immediate :
    (after 0x3100 (start.setPc 0x208)).map State.pc = some 0x20C ∧
    (after 0x3100 ((start.setPc 0x208).setV 1 4)).map State.pc = some 0x20A := by decide

theorem test_C20_skip_wraps : (after 0x3000 (start.setPc 0xFFFE)).map State.pc = some 0x0002 := by decide

theorem test_C11_C12_sne_immediate :
    (after 0x4100 (start.setV 1 4)).map State.pc = some 0x204 ∧ (after 0x4100 start).map State.pc = some 0x202 := by
  decide

theorem test_C13_C14_se_register :
    (after 0x5230 ((start.setV 2 7).setV 3 7)).map State.pc = some 0x204 ∧
    (after 0x5230 ((start.setV 2 7).setV 3 8)).map State.pc = some 0x202 := by decide

theorem test_C15_C16_sne_register :
    (after 0x9230 ((start.setV 2 7).setV 3 8)).map State.pc = some 0x204 ∧
    (after 0x9230 ((start.setV 2 7).setV 3 7)).map State.pc = some 0x202 := by decide

theorem test_C19_indexed_jump_is_not_masked : (after 0xBFFF (start.setV 0 0xFF)).map State.pc = some 0x10FE := by
  decide

/-! Arithmetic, logic, shifts, random. -/

theorem test_A1_load : (after 0x6A2C start).map (fun t => (t.getV 0xA, t.pc)) = some (0x2C, 0x202) := by decide

theorem test_A3_add_immediate_has_no_flag :
    (after 0x7102 ((start.setV 1 0xFF).setV regVF 0x55)).map (fun t => (t.getV 1, t.getV regVF)) =
      some (0x01, 0x55) := by decide

theorem test_A5_copy :
    (after 0x8010 ((start.setV 0 0x12).setV 1 0x34)).map (fun t => (t.getV 0, t.getV 1)) = some (0x34, 0x34) := by
  decide

theorem test_A6_or_leaves_vf :
    (after 0x8011 (((start.setV 0 0x0F).setV 1 0xF1).setV regVF 0x77)).map (fun t => (t.getV 0, t.getV regVF)) =
      some (0xFF, 0x77) := by decide

theorem test_A7_and_leaves_vf :
    (after 0x8012 (((start.setV 0 0x3C).setV 1 0x0F).setV regVF 0x77)).map (fun t => (t.getV 0, t.getV regVF)) =
      some (0x0C, 0x77) := by decide

theorem test_A9b_xor_into_vf :
    (after 0x8F13 ((start.setV regVF 0xF0).setV 1 0xFF)).map (fun t => t.getV regVF) = some 0x0F := by decide

theorem test_A10_add_carry :
    (after 0x8014 ((start.setV 0 0xFF).setV 1 0x01)).map (fun t => (t.getV 0, t.getV regVF)) =
      some (0x00, 0x01) := by decide

theorem test_A15_add_result_wins_in_vf :
    (after 0x8F14 ((start.setV regVF 0xF0).setV 1 0x20)).map (fun t => t.getV regVF) = some 0x10 := by decide

theorem test_A20_sub_borrow :
    (after 0x8015 ((start.setV 0 0x05).setV 1 0x0A)).map (fun t => (t.getV 0, t.getV regVF)) =
      some (0xFB, 0x00) := by decide

theorem test_A22_sub_equal_is_no_borrow :
    (after 0x8015 ((start.setV 0 0x07).setV 1 0x07)).map (fun t => (t.getV 0, t.getV regVF)) =
      some (0x00, 0x01) := by decide

theorem test_A30_subn :
    (after 0x8017 ((start.setV 0 0x05).setV 1 0x0A)).map (fun t => (t.getV 0, t.getV regVF)) =
      some (0x05, 0x01) := by decide

theorem test_A32_subn_result_wins_in_vf :
    (after 0x8F17 ((start.setV regVF 0x03).setV 1 0x05)).map (fun t => t.getV regVF) = some 0x02 := by decide

theorem test_A40_shr_ignores_vy :
    (after 0x8016 ((start.setV 0 0x07).setV 1 0xFF)).map (fun t => (t.getV 0, t.getV 1, t.getV regVF)) =
      some (0x03, 0xFF, 0x01) := by decide

theorem test_A42_shr_of_vf : (after 0x8F16 (start.setV regVF 0x03)).map (fun t => t.getV regVF) = some 0x00 := by
  decide

theorem test_A50_shl_raw_flag :
    (after 0x800E (start.setV 0 0xC1)).map (fun t => (t.getV 0, t.getV regVF)) = some (0x82, 0x80) := by decide

theorem test_A53_A55_shl_of_vf :
    (after 0x8F0E (start.setV regVF 0x81)).map (fun t => t.getV regVF) = some 0x00 ∧
    (shiftLeft false regVF (start.setV regVF 0x81)).getV regVF = 0x02 := by decide

theorem test_A60_random_is_masked :
    (after 0xC30F (start.setRndPort (some 0xB7))).map (fun t => (t.getV 3, t.draws)) = some (0x07, 1) := by decide

/-- The environment drives rnd during the Step only. -/
theorem test_A63_issued_random :
    (afterEvent (.step 0xA5) (start.withFetchWord 16 0xCFFF)).map (fun t => (t.getV regVF, t.rndPort)) =
      some (0xA5, none) := by decide

theorem test_F9_nop8 :
    (after 0x812F ((start.setV 1 0x33).setV 2 0x44)).map (fun t => (t.getV 1, t.getV regVF, t.pc)) =
      some (0x33, 0, 0x202) := by decide

/-! Index register and memory. -/

theorem test_M1_load_index : (after 0xAFFF start).map State.i = some 0xFFF := by decide

theorem test_M11_add_index_overflow :
    (after 0xF21E ((start.setI 0x0FFB).setV 2 0x05)).map (fun t => (t.i, t.getV regVF)) = some (0x1000, 1) := by
  decide

theorem test_M13_add_index_drops_high_bits :
    (after 0xF21E ((start.setI 0x1FFE).setV 2 0x01)).map (fun t => (t.i, t.getV regVF)) = some (0x0FFF, 0) := by
  decide

theorem test_M22_glyph_is_not_masked : (after 0xF429 (start.setV 4 0xFF)).map State.i = some 0x04FB := by decide

theorem test_M23_decimal_wraps :
    (after 0xF033 ((start.setV 0 0xFF).setI 0x0FFE)).map
        (fun t => (t.memRead 0xFFE, t.memRead 0xFFF, t.memRead 0, t.i)) =
      some (2, 5, 5, 0x0FFE) := by decide

theorem test_M26_store_group_wraps :
    (after 0xF255 ((((start.setV 0 0x11).setV 1 0x22).setV 2 0x33).setI 0x0FFE)).map
        (fun t => (t.memRead 0xFFE, t.memRead 0xFFF, t.memRead 0, t.memRead 1, t.i)) =
      some (0x11, 0x22, 0x33, 0x90, 0x1001) := by decide

theorem test_M27_index_wraps : (after 0xF055 (start.setI 0xFFFF)).map State.i = some 0x0000 := by decide

theorem test_M28_load_group :
    (after 0xF165 ((start.setI 0x1000).setV 2 0x77)).map (fun t => (t.getV 0, t.getV 1, t.getV 2, t.i)) =
      some (0xF0, 0x90, 0x77, 0x1002) := by decide

/-! Display. -/

theorem test_D10_clear_leaves_vf :
    (after 0x00E0 ((lit [(3, 4)] start).setV regVF 0x07)).map (fun t => (t.getPixel 3 4, t.getV regVF)) =
      some (false, 0x07) := by decide

theorem test_D9c_row_wrap_stays_in_row :
    (after 0xD011 ((sprite [0xC0] start).setV 0 0x3F)).map
        (fun t => (t.getPixel 0 63, t.getPixel 0 0, t.getPixel 1 0, t.getV regVF)) =
      some (true, true, false, 0) := by decide

theorem test_D5_collision :
    (after 0xD011 (sprite [0xC0] (lit [(0, 0)] start))).map
        (fun t => (t.getPixel 0 0, t.getPixel 0 1, t.getV regVF)) =
      some (false, true, 1) := by decide

/-- The packed byte of V-D3: columns 3 and 10 of row 1. -/
theorem test_D3_packed :
    ((lit [(1, 3), (1, 10)] start).pix.packedByte 8, (lit [(1, 3), (1, 10)] start).pix.packedByte 9) =
      (0x10, 0x20) := by decide

/-! Keys, timers, the key wait. -/

theorem test_K1_K2_skp :
    (after 0xE59E ((start.setV 5 0x0A).setKeys (levels [10]))).map State.pc = some 0x204 ∧
    (after 0xE59E (start.setV 5 0x0A)).map State.pc = some 0x202 := by decide

theorem test_K5_skp_fault :
    (after 0xE59E (start.setV 5 0x10)).map (fun t => (t.pc, t.fault)) = some (0x202, .keyIndexOutOfRange) := by decide

theorem test_K3_K4_sknp :
    (after 0xE5A1 (start.setV 5 0x0A)).map State.pc = some 0x204 ∧
    (after 0xE5A1 ((start.setV 5 0x0A).setKeys (levels [10]))).map State.pc = some 0x202 := by decide

theorem test_K6_sknp_fault :
    (after 0xE5A1 (start.setV 5 0xFF)).map (fun t => (t.pc, t.fault)) = some (0x202, .keyIndexOutOfRange) := by decide

theorem test_F11_nope :
    (after 0xE500 (start.setV 5 0xFF)).map (fun t => (t.pc, t.fault)) = some (0x202, .none) := by decide

theorem test_T6_read_delay : (after 0xF307 (start.setDt 0x1E)).map (fun t => t.getV 3) = some 0x1E := by decide

theorem test_T7_set_delay :
    (after 0xF315 (start.setV 3 0x3C)).map (fun t => (t.dt, t.st)) = some (0x3C, 0) := by decide

theorem test_T8_set_sound :
    (after 0xF418 (start.setV 4 0x05)).map (fun t => (t.dt, t.st)) = some (0, 0x05) := by decide

theorem test_K8_key_wait :
    (after 0xF50A (start.setV 5 0x33)).map (fun t => (t.wait, t.getV 5, t.pc)) =
      some ({ active := true, target := 5 }, 0x33, 0x202) := by decide

theorem test_F12_nopf : (after 0xF2FF start).map (fun t => (t.pc, t.i)) = some (0x202, 0) := by decide

theorem test_T1_tick_counts_down :
    (afterEvent .tick ((start.setDt 60).setSt 2)).map (fun t => (t.dt, t.st)) = some (59, 1) ∧
    sndDec (start.setSt 2) = 1 := by decide

theorem test_T2_tick_saturates :
    (afterEvent .tick start).map (fun t => (t.dt, t.st)) = some (0, 0) ∧ sndDec start = 0 := by decide

theorem test_T3_batch :
    (afterEvent (.tickBatch 5) ((start.setDt 3).setSt 9)).map (fun t => (t.dt, t.st)) = some (0, 4) ∧
    sndDecBatch 5 (start.setSt 9) = 5 := by decide

theorem test_K8_held_key_is_no_edge :
    (afterEvent (.keySample (levels [2])) (waitFor 5 (start.setKeys (levels [2])))).map (fun t => t.wait.active) =
      some true := by decide

theorem test_K8_largest_edge_wins :
    (afterEvent (.keySample (levels [2, 4, 9])) (waitFor 5 start)).map (fun t => (t.getV 5, t.wait.active)) =
      some (0x09, false) := by decide

theorem test_K7_sample_without_wait :
    (afterEvent (.keySample (levels [7])) start).map (fun t => (t.getKey 7, t.getV 7)) = some (true, 0) := by decide

/-! Reset. -/

theorem test_R1_reset_loads_the_rom :
    (afterEvent (.reset [0x12, 0x00]) ((waitFor 3 start).setI 0x123)).map
        (fun t => (t.memRead 0x200, t.memRead 0x201, t.memRead 0x04F, t.i, t.pc, t.wait.active)) =
      some (0x12, 0x00, 0x80, 0, 0x200, false) := by decide +kernel

/-- The Reset event with an empty rom and State.reset are the same state. -/
theorem test_boot_of_the_empty_rom : State.boot font [] start = State.reset := by decide +kernel

/-! Witnesses: for each obligation with hypotheses, states and operands that meet all of them, at the edges of the
ranges that its clauses name. -/

theorem witness_DecodeOfEncodeIsTheInstruction :
    Instr.wellFormed (.sys 0x0E1) = true ∧ Instr.wellFormed (.nop8 0xF 0xF 0xF) = true ∧
    Instr.wellFormed (.nope 0xF 0xA2) = true ∧ Instr.wellFormed (.nopf 0 0x66) = true ∧
    Instr.wellFormed (.drw 0xF 0 0xF) = true := by decide

/-- At the last address the two bytes lie at both ends of memory. -/
theorem witness_StepRunsTheDecodedInstruction :
    (start.setPc 0xFFFF).running ∧ Memory.read (start.setPc 0xFFFF).mem ((start.setPc 0xFFFF).pc.toNat % 4096) = 0x00 ∧
    Memory.read (start.setPc 0xFFFF).mem (((start.setPc 0xFFFF).pc.toNat + 1) % 4096) = 0xF0 := by decide

def issuedStep (rnd : Byte) (s : State) : State := s.setAgenda [.step rnd, .tick]

theorem witness_IssuedStepRunsWithItsRandomByte :
    (issuedStep 0xA5 start).agenda = .step 0xA5 :: [.tick] ∧ (issuedStep 0xA5 start).fault = .none ∧
    (issuedStep 0xA5 start).wait.active = false := by decide

theorem witness_HeldMachineKeepsItsState_no_agenda :
    (start.setFault .stackUnderflow).agenda = [] ∧ (start.setFault .stackUnderflow).env = .steps ∧
    (start.setFault .stackUnderflow).fault ≠ .none ∧
    (waitFor 3 start).agenda = [] ∧ (waitFor 3 start).env = .steps ∧ (waitFor 3 start).wait.active = true := by decide

theorem witness_HeldMachineKeepsItsState_issued :
    (issuedStep 0 (start.setFault .stackUnderflow)).agenda = .step 0 :: [.tick] ∧
    (issuedStep 0 (start.setFault .stackUnderflow)).fault ≠ .none ∧
    (issuedStep 0 (waitFor 3 start)).wait.active = true := by decide

theorem witness_AgendaRunIsTheEventSequence : start.agenda = [] := by decide

/-- From a place in the interleaving: three events that go on, and one that is refused. -/
theorem witness_EveryInfiniteInterleavingIsARun :
    (start.setEnv (.free 7)).agenda = [] ∧ (start.setEnv (.free 7)).env = .free 7 ∧
    (∃ t, issueAll ((List.range' 7 3).map (fun k => if k = 8 then .readout else .tick)) (start.setEnv (.free 7)) =
      .next t) ∧
    ∃ r, issueAll ((List.range' 7 1).map (fun _ => .reset (List.replicate 3585 0))) (start.setEnv (.free 7)) =
      .refused r := by
  refine ⟨by decide, by decide, ⟨_, rfl⟩, .romTooLong 3585, ?_⟩
  have h : ¬(List.replicate 3585 (0 : Byte)).length ≤ Config.romMax := by
    rw [List.length_replicate]
    decide
  have hr : issue (.reset (List.replicate 3585 0)) (start.setEnv (.free 7)) = .refused (.romTooLong 3585) := by
    rw [issue, resetEvent, if_neg h, List.length_replicate]
  simp only [List.range', List.map_cons, List.map_nil, issueAll, hr]

/-- The bytes on both sides of the end of the font. -/
theorem witness_ResetStateHoldsTheSpecifiedValues :
    State.reset.memRead 0 = 0xF0 ∧ State.reset.memRead 79 = 0x80 ∧ State.reset.memRead 80 = 0 ∧
    State.reset.memRead 4095 = 0 := by decide

theorem witness_ResetEventBuildsTheInitialState :
    font.length = 80 ∧ (List.replicate 3584 (0x12 : Byte)).length ≤ 3584 := by
  refine ⟨by decide, ?_⟩
  rw [List.length_replicate]

theorem witness_OverlongRomIsRefused :
    3584 < (List.replicate 3585 (0 : Byte)).length ∧
    (start.setAgenda [.reset (List.replicate 3585 0)]).agenda = .reset (List.replicate 3585 0) :: [] := by
  refine ⟨?_, rfl⟩
  rw [List.length_replicate]
  decide

theorem witness_EveryStepKeepsTheInvariant : State.reset.inv ∧ ∃ t, step State.reset = .next t :=
  ⟨by decide, _, rfl⟩

theorem witness_CanonicalMemoryIsDeterminedByItsBytes :
    Memory.wf [(0, 0x11), (0xFFF, 0x22)] ∧
    Memory.wf (Memory.writeByte (Memory.writeByte [] 0x1000 0x11) 0xFFF 0x22) ∧
    Memory.writeByte (Memory.writeByte [] 0x1000 0x11) 0xFFF 0x22 = [(0, 0x11), (0xFFF, 0x22)] := by decide

theorem witness_flag_writers_outside_vf : (0 : Reg) ≠ regVF ∧ (0xE : Reg) ≠ regVF := by decide

theorem witness_RandomByteIsMasked :
    (start.setRndPort (some 0xB7)).rndPort = some 0xB7 ∧ start.rndPort = none := by decide

/-- The reserved sub-opcodes next to used ones. -/
theorem witness_ReservedWordsOnlyAdvancePc :
    (start.withFetchWord 16 0x8128).running ∧
    (start.withFetchWord 16 0x8128).fetchWord.toNat / 4096 = 8 ∧
    (start.withFetchWord 16 0x8128).fetchWord.toNat % 16 ∈ [8, 9, 10, 11, 12, 13, 15] ∧
    (start.withFetchWord 16 0xE59F).fetchWord.toNat / 4096 = 14 ∧
    (start.withFetchWord 16 0xE59F).fetchWord.toNat % 256 ∉ [0x9E, 0xA1] ∧
    (start.withFetchWord 16 0xF266).fetchWord.toNat / 4096 = 15 ∧
    (start.withFetchWord 16 0xF266).fetchWord.toNat % 256 ∉
      [0x07, 0x0A, 0x15, 0x18, 0x1E, 0x29, 0x33, 0x55, 0x65] := by decide

/-- A jump to itself at 0x200, and at the last address, where its bytes lie at both ends of memory. -/
theorem witness_JumpToSelf :
    (start.withFetchWord 16 0x1200).running ∧ (start.withFetchWord 16 0x1200).fetchWord.toNat = 0x1000 + 0x200 ∧
    ((start.setPc 0xFFF).withFetchWord 16 0x1FFF).pc.toNat < 4096 ∧
    ((start.setPc 0xFFF).withFetchWord 16 0x1FFF).fetchWord.toNat = 0x1000 + 0xFFF := by decide

theorem witness_CallPushesOrOverflows :
    spValue start.sp < 15 ∧ spValue (start.setSp (some 14)).sp < 15 ∧ spValue (start.setSp (some 15)).sp = 15 := by
  decide

theorem witness_ReturnPopsOrUnderflows :
    (start.setSp (some 0)).sp = some 0 ∧ (start.setSp (some 15)).sp = some 15 ∧ spValue start.sp = -1 := by decide

/-- Called from SP = 14; the body has changed a register and V[0] since. -/
theorem witness_ReturnUndoesCall :
    ∃ t u, spValue (start.setSp (some 14)).sp < 15 ∧ exec (.call 0x300) (start.setSp (some 14)) = .next t ∧
      u.sp = t.sp ∧ (∀ j, u.getStack j = t.getStack j) ∧ u ≠ t :=
  ⟨_, (((start.setSp (some 15)).setStack 15 0x200).setPc 0x310).setV 0 7, by decide, rfl, by decide, by decide,
    by decide⟩

theorem witness_KeySkipsTestTheLevelOrFault :
    ((start.setV 5 0x00).getV 5).toNat = (0 : KeyCode).val ∧ ((start.setV 5 0x0F).getV 5).toNat = (15 : KeyCode).val ∧
    ((start.setV 5 0x10).getV 5).toNat > 15 ∧ ((start.setV 5 0xFF).getV 5).toNat > 15 := by decide

theorem witness_FaultingStepIsPreciseAndFinal :
    (start.withFetchWord 16 0x00EE).running ∧ decode (start.withFetchWord 16 0x00EE).fetchWord = .ret ∧
    spValue (start.withFetchWord 16 0x00EE).sp = -1 ∧
    decode (start.withFetchWord 16 0x2300).fetchWord = .call 0x300 ∧
    spValue ((start.setSp (some 15)).withFetchWord 16 0x2300).sp = 15 ∧
    decode (start.withFetchWord 16 0xE59E).fetchWord = .skp 5 ∧
    decode (start.withFetchWord 16 0xE5A1).fetchWord = .sknp 5 ∧
    (((start.setV 5 0x10).withFetchWord 16 0xE59E).getV 5).toNat > 15 := by decide

theorem witness_OnlyThreeConditionsFault :
    start.fault = .none ∧ (∃ t, exec .ret start = .next t ∧ t.fault ≠ .none) ∧
    (∃ t, exec (.call 0x300) (start.setSp (some 15)) = .next t ∧ t.fault ≠ .none) ∧
    ∃ t, exec (.sknp 5) (start.setV 5 0x10) = .next t ∧ t.fault ≠ .none :=
  ⟨by decide, ⟨_, rfl, by decide⟩, ⟨_, rfl, by decide⟩, ⟨_, rfl, by decide⟩⟩

theorem witness_FaultStaysUntilReset :
    ∃ t, ((start.setFault .stackOverflow).setAgenda [.tick]).fault ≠ .none ∧
      step ((start.setFault .stackOverflow).setAgenda [.tick]) = .next t ∧
      ∀ rom, ((start.setFault .stackOverflow).setAgenda [.tick]).upcoming ≠ some (.reset rom) :=
  ⟨_, by decide, rfl, fun _ h => by cases h⟩

theorem witness_TickCountsBothTimersDown :
    ((start.setDt 0xFF).setAgenda [.tick]).agenda = .tick :: [] := by decide

theorem witness_KeyWaitHoldsTheMachine :
    (waitFor 3 start).wait.active = true ∧
    ∀ e ∈ [Event.step 0, .tick, .tickBatch 300, .readout], e.keepsWait = true := by decide

theorem witness_KeySample_without_wait_or_edge :
    (start.setAgenda [.keySample (levels [7])]).agenda = .keySample (levels [7]) :: [] ∧ start.wait.active = false ∧
    ∀ k, (waitFor 5 (start.setKeys (levels [0, 15]))).getKey k = true ∨ (levels [15])[k] = false := by decide

/-- Edges 0 and 15, at both ends of the range, with key 7 held. -/
theorem witness_KeySample_with_wait_and_edge :
    (waitFor 5 (start.setKeys (levels [7]))).wait.active = true ∧
    (waitFor 5 (start.setKeys (levels [7]))).getKey 15 = false ∧ (levels [0, 7, 15])[(15 : KeyCode)] = true ∧
    ∀ j, (waitFor 5 (start.setKeys (levels [7]))).getKey j = false → (levels [0, 7, 15])[j] = true →
      j ≤ (15 : KeyCode) := by decide

theorem witness_AnyTiebreakDeliversAFallenKey :
    (∀ edges : List KeyCode, edges ≠ [] → ∃ k, edges.head? = some k ∧ k ∈ edges) ∧
    (waitFor 5 start).wait.active = true ∧ ∃ k : KeyCode, (waitFor 5 start).getKey k = false ∧ (levels [3])[k] = true := by
  refine ⟨fun edges h => ?_, by decide, by decide⟩
  cases edges with
  | nil => exact absurd rfl h
  | cons k rest => exact ⟨k, rfl, by simp⟩

theorem witness_KeyWait_is_entered :
    ∃ t, (start.withFetchWord 16 0xF50A).wait.active = false ∧ step (start.withFetchWord 16 0xF50A) = .next t ∧
      t.wait.active = true :=
  ⟨_, by decide, rfl, by decide⟩

theorem witness_KeyWait_is_left :
    (∃ t, step ((waitFor 5 start).setAgenda [.keySample (levels [3])]) = .next t ∧ t.wait.active = false) ∧
    ∃ t, step ((waitFor 5 start).setAgenda [.reset []]) = .next t ∧ t.wait.active = false :=
  ⟨⟨_, rfl, by decide⟩, ⟨_, rfl, by decide⟩⟩

/-- The block of Fx55, Fx65 and of Fx33 from I = 0xFFFF on, and the first address after it. -/
theorem witness_block_at_index :
    effAddr 0xFFFF (0 : Reg).val = 0xFFF ∧ effAddr 0xFFFF (0xF : Reg).val = 0x00E ∧
    (∀ r : Reg, r ≤ 0xF → 0x00F % 4096 ≠ effAddr 0xFFFF r.val) ∧
    (∀ k, k < 3 → 0x002 % 4096 ≠ effAddr 0xFFFF k) ∧ (0xE : Reg) < 0xF := by decide

theorem witness_StoreThenLoadReproducesTheRegisters :
    ∃ t, exec (.ldMemVx 0xF) (start.setI 0xFFFF) = .next t := ⟨_, rfl⟩

/-- In the program area, and at the end of memory with I and PC differing in their high bits. -/
theorem witness_StoredWordIsExecutedNext :
    ((start.setI 0x202).withFetchWord 16 0xF155).running ∧
    decode ((start.setI 0x202).withFetchWord 16 0xF155).fetchWord = .ldMemVx 1 ∧ 1 ≤ (1 : Reg).val ∧
    (start.setI 0x202).i.toNat % 4096 = ((start.setI 0x202).pc.toNat + 2) % 4096 ∧
    decode (((start.setI 0x1000).setPc 0xFFFE).withFetchWord 16 0xF155).fetchWord = .ldMemVx 1 ∧
    ((start.setI 0x1000).setPc 0xFFFE).i.toNat % 4096 = (((start.setI 0x1000).setPc 0xFFFE).pc.toNat + 2) % 4096 := by
  decide

/-- The sprite byte 0x81 at column 63, row 31 covers (31, 63) and, wrapped, (31, 6); it does not cover (31, 62). -/
theorem witness_DrawInvertsTheCoveredPixels :
    spriteCovers (sprite [0x81] start) 63 31 1 31 63 ∧ spriteCovers (sprite [0x81] start) 63 31 1 31 6 ∧
    ¬spriteCovers (sprite [0x81] start) 63 31 1 31 62 ∧ (lit [(31, 63)] start).getPixel 31 63 = true ∧
    ∀ row col, start.getPixel row col = false := by
  refine ⟨⟨0, 0, by decide⟩, ⟨0, 7, by decide⟩, ?_, by decide, by decide⟩
  rintro ⟨r, b, hr, hb, -, hc, -⟩
  have hc : (63 + b) % 64 = 62 := hc
  omega

theorem witness_DrawingTwiceRestoresTheDisplay :
    (0 : Reg) ≠ regVF ∧ (0xE : Reg) ≠ regVF ∧ spriteCovers (sprite [0x81] start) 63 31 1 31 6 ∧
    (sprite [0x81] start).getPixel 31 6 = false :=
  ⟨by decide, by decide, ⟨0, 7, by decide⟩, by decide⟩

theorem witness_EveryInstructionKeepsItsFrame : ∃ t, exec (.ldVxMem 0xF) start = .next t := ⟨_, rfl⟩

/-- A taken skip at the end of the 16-bit range. -/
theorem witness_PcStaysEvenWithoutJumps :
    ((start.setPc 0xFFFE).withFetchWord 16 0x3000).running ∧
    setsPc (decode ((start.setPc 0xFFFE).withFetchWord 16 0x3000).fetchWord) = false ∧
    ((start.setPc 0xFFFE).withFetchWord 16 0x3000).pc.toNat % 2 = 0 ∧
    ∃ t, step ((start.setPc 0xFFFE).withFetchWord 16 0x3000) = .next t :=
  ⟨by decide, by decide, by decide, _, rfl⟩

theorem witness_HighBitsOfIndexAreUnobservable :
    SameButHighI (start.setI 0xFFFE) (start.setI 0x0FFE) ∧ start.setI 0xFFFE ≠ start.setI 0x0FFE :=
  ⟨⟨by decide, rfl⟩, by decide⟩

theorem witness_SoundTimerIsUnobservable :
    SameButSt (start.setSt 0xFF) start ∧ start.setSt 0xFF ≠ start :=
  ⟨rfl, by decide⟩

/-- Entry 1 is stale at SP = 0. -/
theorem witness_StaleStackEntriesAreUnobservable :
    SameButStaleStack ((start.setSp (some 0)).setStack 1 0x300) (start.setSp (some 0)) ∧
    (start.setSp (some 0)).setStack 1 0x300 ≠ start.setSp (some 0) :=
  ⟨⟨by decide, rfl⟩, by decide⟩

def pins (rstLoad step tick60 keyStrobe : Bool) : PinsIn where
  rstLoad := rstLoad
  romData := Vector.replicate 3584 0x12
  romLen := 2
  step := step
  rnd := 0
  tick60 := tick60
  keyStrobe := keyStrobe
  keyIn := 0x8001

theorem witness_OneStrobeIsHonouredByPriority :
    honoured (pins true true true true) = some (.reset (pins true true true true).romImage) ∧
    honoured (pins false true true true) = some (.step 0) ∧ honoured (pins false false true true) = some .tick ∧
    honoured (pins false false false true) = some (.keySample (levels [0, 15])) ∧
    honoured (pins false false false false) = none := by decide

/-- The image is the first rom_len bytes of the data; one longer than the data is refused by Reset, not cut (R126). -/
theorem test_rom_image :
    (pins true false false false).romImage = [0x12, 0x12] ∧
    ({ pins true false false false with romLen := 3585 } : PinsIn).romImage.length = 3585 := by
  refine ⟨?_, ?_⟩
  · simp [PinsIn.romImage, pins]
    decide
  · rw [PinsIn.romImage, List.length_map, List.length_range]
    decide

end Sys2Proof.Tests
end

/-!
PROOFS. Control transfer (40_control.md): the jump 1nnn and the immediate skips, and the facts that every write of PC
and every running step share.
-/

namespace Sys2Proof.Machine

/-! Writes of PC. -/

@[simp] theorem State.setPc_setPc (s : State) (w w' : Word) : (s.setPc w).setPc w' = s.setPc w' := rfl

@[simp] theorem State.setPc_self (s : State) : s.setPc s.pc = s := rfl

theorem unchangedBut_setPc (s : State) (w : Word) : UnchangedBut [] [.pc] s (s.setPc w) := by
  refine ⟨fun _ _ => rfl, fun p hp => ?_⟩
  cases p
  case pc => simp at hp
  all_goals simp [Piece.same]

/-! Targets. -/

@[simp] theorem immAddress_toNat (nnn : Addr12) : (immAddress nnn).toNat = nnn.toNat :=
  BitVec.toNat_setWidth_of_le (b := nnn) (by decide : 12 ≤ 16)

theorem immAddress_ofNat_toNat {w : Word} (h : w.toNat < 4096) : immAddress (BitVec.ofNat 12 w.toNat) = w := by
  apply BitVec.eq_of_toNat_eq
  rw [immAddress_toNat, BitVec.toNat_ofNat, Nat.mod_eq_of_lt h]

/-- A skip adds 2 modulo 65536 when it is taken (40_control.md R59 to R62). -/
theorem skipTarget_toNat (p : Prop) [Decidable p] (w : Word) :
    (if p then w + 2 else w).toNat = if p then (w.toNat + 2) % 65536 else w.toNat :=
  apply_ite BitVec.toNat p (w + 2) w

/-! Words. -/

theorem encNnn_toNat (hi : Nibble) (nnn : Addr12) : (encNnn hi nnn).toNat = hi.toNat * 4096 + nnn.toNat := by
  rw [encNnn, BitVec.toNat_append, ← Nat.shiftLeft_add_eq_or_of_lt nnn.isLt, Nat.shiftLeft_eq]

@[simp] theorem decode_encNnn_jp (nnn : Addr12) : decode (encNnn 0x1 nnn) = .jp nnn := by simp [decode]

@[simp] theorem decode_encXKk_seVxKk (x : Reg) (kk : Byte) : decode (encXKk 0x3 x kk) = .seVxKk x kk := by
  simp [decode]

@[simp] theorem decode_encXKk_sneVxKk (x : Reg) (kk : Byte) : decode (encXKk 0x4 x kk) = .sneVxKk x kk := by
  simp [decode]

/-! Running steps. -/

/-- The step of a running machine runs the fetched word on the advanced PC (30_encoding.md R53). -/
theorem step_of_running {s : State} (h : s.running) : step s = exec (decode s.fetchWord) (s.setPc (s.pc + 2)) := by
  obtain ⟨hagenda, henv, hfault, hwait⟩ := h
  rw [step_of_steps hagenda henv, stepEvent_of_running ((held_eq_false s).2 ⟨hfault, hwait⟩)]

/-- A fetched 1nnn overwrites the advanced PC. -/
theorem step_of_fetched_jp {s : State} {nnn : Addr12} (h : s.running) (hw : s.fetchWord = encNnn 0x1 nnn) :
    step s = .next (s.setPc (immAddress nnn)) := by
  rw [step_of_running h, hw, decode_encNnn_jp, exec_jp, State.setPc_setPc]

/-! 1nnn. -/

theorem exec_jp_spec (s : State) (nnn : Addr12) :
    ∃ t, exec (.jp nnn) s = .next t ∧ t.pc.toNat = nnn.toNat ∧ UnchangedBut [] [.pc] s t :=
  ⟨_, exec_jp s nnn, immAddress_toNat nnn, unchangedBut_setPc s _⟩

theorem step_of_jump_to_self {s : State} (h : s.running) (hpc : s.pc.toNat < 4096)
    (hw : s.fetchWord.toNat = 0x1000 + s.pc.toNat) : step s = .next s := by
  have hword : s.fetchWord = encNnn 0x1 (BitVec.ofNat 12 s.pc.toNat) := by
    apply BitVec.eq_of_toNat_eq
    rw [hw, encNnn_toNat, BitVec.toNat_ofNat, Nat.mod_eq_of_lt hpc]
    rfl
  rw [step_of_fetched_jp h hword, immAddress_ofNat_toNat hpc, State.setPc_self]

/-- Settles O25: the jump's target replaces the PC that the fetch advanced, so a target equal to the old PC restores the
whole state. -/
theorem jumpSetsPcAndJumpToSelfIsAFixedPoint : Obligations.JumpSetsPcAndJumpToSelfIsAFixedPoint :=
  ⟨fun s nnn => ⟨decode_encNnn_jp nnn, exec_jp_spec s nnn⟩, fun _ h hpc hw => step_of_jump_to_self h hpc hw⟩

/-! 3xkk and 4xkk. -/

/-- What an instruction does that only skips on a condition: for the immediate, the register and the key skips. -/
theorem exec_skip_spec {i : Instr} {s : State} {p : Prop} [Decidable p]
    (h : exec i s = .next (s.setPc (if p then s.pc + 2 else s.pc))) :
    ∃ t, exec i s = .next t ∧ UnchangedBut [] [.pc] s t ∧
      t.pc.toNat = if p then (s.pc.toNat + 2) % 65536 else s.pc.toNat :=
  ⟨_, h, unchangedBut_setPc s _, skipTarget_toNat p s.pc⟩

/-- Settles O29: both instructions are skips, on V[x] = kk and on V[x] ≠ kk. -/
theorem immediateSkipsTestTheirCondition : Obligations.ImmediateSkipsTestTheirCondition := fun s x kk =>
  ⟨decode_encXKk_seVxKk x kk, decode_encXKk_sneVxKk x kk, exec_skip_spec (exec_seVxKk s x kk),
    exec_skip_spec (exec_sneVxKk s x kk)⟩

end Sys2Proof.Machine

/-!
PROOFS. Loads, logic and the immediate addition, and the reserved words of families 8, E and F (41_alu.md R67 to R72,
R79; 44_timers_keys.md R99, R100).
-/

namespace Sys2Proof.Machine

/-! Frames. -/

theorem Piece.same_refl (p : Piece) (s : State) : p.same s s := by
  cases p <;> simp [Piece.same]

theorem unchangedBut_refl (regs : List Reg) (pieces : List Piece) (s : State) : UnchangedBut regs pieces s s :=
  ⟨fun _ _ => rfl, fun p _ => p.same_refl s⟩

theorem unchangedBut_setV (s : State) (x : Reg) (b : Byte) : UnchangedBut [x] [] s (s.setV x b) := by
  refine ⟨fun r hr => State.getV_setV_of_ne s b (List.ne_of_not_mem_cons hr), fun p _ => ?_⟩
  cases p <;> simp [Piece.same]

/-! Words with a result in V[x] only. -/

theorem decode_encXKk_ldVxKk (x : Reg) (kk : Byte) : decode (encXKk 0x6 x kk) = .ldVxKk x kk := by
  simp [decode]

theorem decode_encXKk_addVxKk (x : Reg) (kk : Byte) : decode (encXKk 0x7 x kk) = .addVxKk x kk := by
  simp [decode]

theorem decode_encXYN_ldVxVy (x y : Reg) : decode (encXYN 0x8 x y 0x0) = .ldVxVy x y := by
  simp [decode, decodeFamily8]

theorem decode_encXYN_orVxVy (x y : Reg) : decode (encXYN 0x8 x y 0x1) = .orVxVy x y := by
  simp [decode, decodeFamily8]

theorem decode_encXYN_andVxVy (x y : Reg) : decode (encXYN 0x8 x y 0x2) = .andVxVy x y := by
  simp [decode, decodeFamily8]

theorem decode_encXYN_xorVxVy (x y : Reg) : decode (encXYN 0x8 x y 0x3) = .xorVxVy x y := by
  simp [decode, decodeFamily8]

/-! Writes of V[x]. -/

/-- What an instruction does that only writes one register: shared by the loads and the logic. -/
theorem exec_setV_spec {i : Instr} {s : State} {x : Reg} {b : Byte} (h : exec i s = .next (s.setV x b)) :
    ∃ t, exec i s = .next t ∧ t.getV x = b ∧ UnchangedBut [x] [] s t :=
  ⟨_, h, State.getV_setV_same s x b, unchangedBut_setV s x b⟩

/-- Settles O16: each of the five instructions is one write of V[x]. -/
theorem loadsAndLogicWriteOnlyTheirRegister : Obligations.LoadsAndLogicWriteOnlyTheirRegister := fun s x y kk =>
  ⟨decode_encXKk_ldVxKk x kk, decode_encXYN_ldVxVy x y, decode_encXYN_orVxVy x y, decode_encXYN_andVxVy x y,
    decode_encXYN_xorVxVy x y, exec_setV_spec (exec_ldVxKk s x kk), exec_setV_spec (exec_ldVxVy s x y),
    exec_setV_spec (exec_orVxVy s x y), exec_setV_spec (exec_andVxVy s x y), exec_setV_spec (exec_xorVxVy s x y)⟩

/-- Settles O17: one write of V[x], whose byte is a sum of bytes and so wraps at 256. -/
theorem addImmediateWrapsWithoutFlag : Obligations.AddImmediateWrapsWithoutFlag := by
  intro s x kk
  obtain ⟨t, hexec, hx, hframe⟩ := exec_setV_spec (exec_addVxKk s x kk)
  exact ⟨decode_encXKk_addVxKk x kk, t, hexec, hx ▸ BitVec.toNat_add _ _, hframe⟩

/-! The fields of a word as numbers (30_encoding.md R43). -/

theorem fieldHi_toNat (op : Word) : (fieldHi op).toNat = op.toNat / 4096 := by
  have := op.isLt
  simp only [fieldHi, BitVec.extractLsb'_toNat, Nat.shiftRight_eq_div_pow]
  omega

theorem fieldN_toNat (op : Word) : (fieldN op).toNat = op.toNat % 16 := BitVec.extractLsb'_toNat 0 4 op

theorem fieldKk_toNat (op : Word) : (fieldKk op).toNat = op.toNat % 256 := BitVec.extractLsb'_toNat 0 8 op

theorem fieldHi_eq_of_div {op : Word} {hi : Nibble} (h : op.toNat / 4096 = hi.toNat) : fieldHi op = hi :=
  BitVec.eq_of_toNat_eq ((fieldHi_toNat op).trans h)

/-! The sub-opcodes in use (30_encoding.md R47), as numbers. -/

theorem family8Used_eq_false_iff (n : Nibble) :
    family8Used n = false ↔ n.toNat ∈ [8, 9, 10, 11, 12, 13, 15] := by
  revert n
  decide

theorem familyEUsed_iff (kk : Byte) : familyEUsed kk = true ↔ kk.toNat ∈ [0x9E, 0xA1] := by
  simp [BitVec.toNat_eq]

theorem familyFUsed_iff (kk : Byte) :
    familyFUsed kk = true ↔ kk.toNat ∈ [0x07, 0x0A, 0x15, 0x18, 0x1E, 0x29, 0x33, 0x55, 0x65] := by
  simp [BitVec.toNat_eq]

/-! What the dispatch of a family does with a sub-opcode not in use (30_encoding.md R49). -/

theorem ne_of_unused {α : Type} {used : α → Bool} {a : α} (h : used a = false) (b : α) (hb : used b = true) :
    a ≠ b :=
  ne_of_apply_ne used (by simp [h, hb])

theorem decodeFamily8_of_unused {op : Word} (h : family8Used (fieldN op) = false) :
    decodeFamily8 op = .nop8 (fieldX op) (fieldY op) (fieldN op) := by
  simp [decodeFamily8, ne_of_unused h]

theorem decodeFamilyE_of_unused {op : Word} (h : familyEUsed (fieldKk op) = false) :
    decodeFamilyE op = .nope (fieldX op) (fieldKk op) := by
  simp [decodeFamilyE, ne_of_unused h]

theorem decodeFamilyF_of_unused {op : Word} (h : familyFUsed (fieldKk op) = false) :
    decodeFamilyF op = .nopf (fieldX op) (fieldKk op) := by
  simp [decodeFamilyF, ne_of_unused h]

/-! The reserved words, by their numbers. -/

theorem decode_of_reserved8 {op : Word} (hhi : op.toNat / 4096 = 8)
    (hn : op.toNat % 16 ∈ [8, 9, 10, 11, 12, 13, 15]) :
    decode op = .nop8 (fieldX op) (fieldY op) (fieldN op) := by
  have hunused : family8Used (fieldN op) = false := by rwa [family8Used_eq_false_iff, fieldN_toNat]
  have hfamily : fieldHi op = 0x8 := fieldHi_eq_of_div hhi
  simp [decode, hfamily, decodeFamily8_of_unused hunused]

theorem decode_of_reservedE {op : Word} (hhi : op.toNat / 4096 = 14) (hkk : op.toNat % 256 ∉ [0x9E, 0xA1]) :
    decode op = .nope (fieldX op) (fieldKk op) := by
  have hunused : familyEUsed (fieldKk op) = false := by
    rwa [← Bool.not_eq_true, familyEUsed_iff, fieldKk_toNat]
  have hfamily : fieldHi op = 0xE := fieldHi_eq_of_div hhi
  simp [decode, hfamily, decodeFamilyE_of_unused hunused]

theorem decode_of_reservedF {op : Word} (hhi : op.toNat / 4096 = 15)
    (hkk : op.toNat % 256 ∉ [0x07, 0x0A, 0x15, 0x18, 0x1E, 0x29, 0x33, 0x55, 0x65]) :
    decode op = .nopf (fieldX op) (fieldKk op) := by
  have hunused : familyFUsed (fieldKk op) = false := by
    rwa [← Bool.not_eq_true, familyFUsed_iff, fieldKk_toNat]
  have hfamily : fieldHi op = 0xF := fieldHi_eq_of_div hhi
  simp [decode, hfamily, decodeFamilyF_of_unused hunused]

/-! Steps on instructions without an effect. -/

theorem exec_noop_spec {i : Instr} {s : State} (h : exec i s = .next s) :
    ∃ t, exec i s = .next t ∧ UnchangedBut [] [] s t :=
  ⟨s, h, unchangedBut_refl [] [] s⟩

/-- A running machine whose fetched instruction has no effect only advances PC. -/
theorem step_of_fetched_noop {s : State} {i : Instr} (h : s.running) (hi : decode s.fetchWord = i)
    (hnoop : ∀ u, exec i u = .next u) : step s = .next (s.setPc (s.pc + 2)) := by
  rw [step_of_running h, hi, hnoop]

/-- Settles O23: the three reserved groups answer the state they are given, which is the fetched one with PC advanced,
and every reserved word is dispatched to its group. -/
theorem reservedWordsOnlyAdvancePc : Obligations.ReservedWordsOnlyAdvancePc := by
  refine ⟨fun s x y n kk => ⟨exec_noop_spec (exec_nop8 s x y n), exec_noop_spec (exec_nope s x kk),
    exec_noop_spec (exec_nopf s x kk)⟩, fun s h hword => ?_⟩
  obtain ⟨hhi, hn⟩ | ⟨hhi, hkk⟩ | ⟨hhi, hkk⟩ := hword
  · exact step_of_fetched_noop h (decode_of_reserved8 hhi hn) fun u => exec_nop8 u _ _ _
  · exact step_of_fetched_noop h (decode_of_reservedE hhi hkk) fun u => exec_nope u _ _
  · exact step_of_fetched_noop h (decode_of_reservedF hhi hkk) fun u => exec_nopf u _ _

end Sys2Proof.Machine

/-!
PROOFS. Index register and memory (42_index_memory.md): the loads of I by Annn and Fx29, the decimal digits of Fx33,
and the facts that every write of I and every store at I share.
-/

namespace Sys2Proof.Machine

/-! Frames. -/

theorem unchangedBut_setI (s : State) (w : Word) : UnchangedBut [] [.i] s (s.setI w) := by
  refine ⟨fun _ _ => rfl, fun p hp => ?_⟩
  cases p
  case i => simp at hp
  all_goals simp [Piece.same]

theorem unchangedBut_memStore (s : State) (a : Nat) (bs : List Byte) : UnchangedBut [] [.mem] s (s.memStore a bs) := by
  refine ⟨fun _ _ => rfl, fun p hp => ?_⟩
  cases p
  case mem => simp at hp
  all_goals simp [Piece.same]

/-! Words. -/

theorem decode_encNnn_ldINnn (nnn : Addr12) : decode (encNnn 0xA nnn) = .ldINnn nnn := by simp [decode]

theorem decode_encXKk_ldFVx (x : Reg) : decode (encXKk 0xF x 0x29) = .ldFVx x := by simp [decode, decodeFamilyF]

theorem decode_encXKk_ldBVx (x : Reg) : decode (encXKk 0xF x 0x33) = .ldBVx x := by simp [decode, decodeFamilyF]

/-! Annn and Fx29. -/

/-- Five times a byte fits in 16 bits, so the product is not reduced (42_index_memory.md R82). -/
theorem glyphAddress_toNat (b : Byte) : (glyphAddress b).toNat = b.toNat * 5 := by
  rw [glyphAddress, BitVec.toNat_ofNat, Nat.mod_eq_of_lt (by omega)]

/-- What an instruction does that only writes I with a word of value n. -/
theorem exec_setI_spec {i : Instr} {s : State} {w : Word} {n : Nat} (h : exec i s = .next (s.setI w))
    (hw : w.toNat = n) : ∃ t, exec i s = .next t ∧ t.i.toNat = n ∧ UnchangedBut [] [.i] s t :=
  ⟨_, h, hw, unchangedBut_setI s w⟩

/-- Settles O42: each of the two instructions is one write of I, with a zero-extended address or a product that fits. -/
theorem indexIsLoadedFromImmediateOrGlyph : Obligations.IndexIsLoadedFromImmediateOrGlyph := fun s nnn x =>
  ⟨decode_encNnn_ldINnn nnn, decode_encXKk_ldFVx x, exec_setI_spec (exec_ldINnn s nnn) (immAddress_toNat nnn),
    exec_setI_spec (exec_ldFVx s x) (glyphAddress_toNat (s.getV x))⟩

/-! Stores at I. -/

/-- An effective address is masked already; the mask of the access leaves it as it is. -/
@[simp] theorem maskAddr_effAddr (base : Word) (k : Nat) : maskAddr (effAddr base k) = effAddr base k :=
  Nat.mod_mod _ _

/-- The k-th byte stored at I reads back at EA(k) (42_index_memory.md R86). -/
theorem State.memRead_memStore_effAddr (s : State) {bs : List Byte} (hlen : bs.length ≤ 4096) {k : Nat}
    (hk : k < bs.length) : (s.memStore s.i.toNat bs).memRead (effAddr s.i k) = bs[k] :=
  s.memRead_memStore_inside _ _ k bs hlen hk (maskAddr_effAddr s.i k)

/-- An address that is no EA(k) of a run of stores at I reads as before. -/
theorem State.memRead_memStore_of_ne_effAddr (s : State) (bs : List Byte) {a : Nat}
    (h : ∀ k, k < bs.length → a % 4096 ≠ effAddr s.i k) : (s.memStore s.i.toNat bs).memRead a = s.memRead a :=
  s.memRead_memStore_outside _ a bs h

/-! Fx33. -/

@[simp] theorem decimalDigits_length (b : Byte) : (decimalDigits b).length = 3 := rfl

/-- Each digit fits in a byte, so the three bytes are the digits themselves (42_index_memory.md R83). -/
theorem decimalDigits_toNat (b : Byte) :
    (decimalDigits b).map BitVec.toNat = [b.toNat / 100, b.toNat / 10 % 10, b.toNat % 10] := by
  have hfits : ∀ n, n < 256 → (BitVec.ofNat 8 n).toNat = n := fun n hn => by
    rw [BitVec.toNat_ofNat, Nat.mod_eq_of_lt hn]
  have := b.isLt
  simp only [decimalDigits, List.map_cons, List.map_nil]
  rw [hfits _ (by omega), hfits _ (by omega), hfits _ (by omega)]

/-- The byte that Fx33 leaves at EA(k) is the k-th decimal digit. -/
theorem digit_stored_at_effAddr (s : State) (b : Byte) (k : Nat) (hk : k < 3) :
    ((s.memStore s.i.toNat (decimalDigits b)).memRead (effAddr s.i k)).toNat =
      [b.toNat / 100, b.toNat / 10 % 10, b.toNat % 10][k] := by
  rw [State.memRead_memStore_effAddr s (by simp) (by simpa using hk)]
  simp only [← decimalDigits_toNat, List.getElem_map]

/-- Settles O44: Fx33 is one run of three stores at I, whose k-th byte is the k-th digit. -/
theorem decimalDigitsAreStoredAtIndex : Obligations.DecimalDigitsAreStoredAtIndex := fun s x =>
  ⟨decode_encXKk_ldBVx x, _, exec_ldBVx s x, digit_stored_at_effAddr s (s.getV x) 0 (by decide),
    digit_stored_at_effAddr s (s.getV x) 1 (by decide), digit_stored_at_effAddr s (s.getV x) 2 (by decide),
    fun _ h => s.memRead_memStore_of_ne_effAddr _ h, unchangedBut_memStore s _ _⟩

end Sys2Proof.Machine

/-!
PROOFS. The display (43_display.md): the clear 00E0, and the frame that every write of the display shares.
-/

namespace Sys2Proof.Machine

theorem unchangedBut_setPix (s : State) (p : Display) : UnchangedBut [] [.pix] s (s.setPix p) := by
  refine ⟨fun _ _ => rfl, fun q hq => ?_⟩
  cases q
  case pix => simp at hq
  all_goals simp [Piece.same]

/-- The word 00E0 is matched on all its bits (30_encoding.md R47). -/
theorem decode_word_cls : decode 0x00E0 = .cls := by decide

/-- Settles O49: the instruction is one write of the display, which leaves it blank. -/
theorem clearBlanksTheDisplay : Obligations.ClearBlanksTheDisplay := fun s =>
  ⟨decode_word_cls, _, exec_cls s, Display.pixel_blank, unchangedBut_setPix s Display.blank⟩

end Sys2Proof.Machine

/-!
PROOFS. Timers and keys (44_timers_keys.md): the moves between V[x] and a timer, and the frames that every write of a
timer shares.
-/

namespace Sys2Proof.Machine

/-! Frames. -/

theorem unchangedBut_setDt (s : State) (b : Byte) : UnchangedBut [] [.dt] s (s.setDt b) := by
  refine ⟨fun r _ => State.setDt_getV s b r, fun p hp => ?_⟩
  cases p
  case dt => simp at hp
  all_goals simp [Piece.same]

theorem unchangedBut_setSt (s : State) (b : Byte) : UnchangedBut [] [.st] s (s.setSt b) := by
  refine ⟨fun r _ => State.setSt_getV s b r, fun p hp => ?_⟩
  cases p
  case st => simp at hp
  all_goals simp [Piece.same]

/-! Words. -/

theorem decode_encXKk_ldVxDt (x : Reg) : decode (encXKk 0xF x 0x07) = .ldVxDt x := by simp [decode, decodeFamilyF]

theorem decode_encXKk_ldDtVx (x : Reg) : decode (encXKk 0xF x 0x15) = .ldDtVx x := by simp [decode, decodeFamilyF]

theorem decode_encXKk_ldStVx (x : Reg) : decode (encXKk 0xF x 0x18) = .ldStVx x := by simp [decode, decodeFamilyF]

/-- Settles O35: Fx07 is one write of V[x], Fx15 one write of DT and Fx18 one write of ST. -/
theorem timerInstructionsCopyOneByte : Obligations.TimerInstructionsCopyOneByte := fun s x =>
  ⟨decode_encXKk_ldVxDt x, decode_encXKk_ldDtVx x, decode_encXKk_ldStVx x, exec_setV_spec (exec_ldVxDt s x),
    ⟨_, exec_ldDtVx s x, State.setDt_dt s _, unchangedBut_setDt s _⟩,
    ⟨_, exec_ldStVx s x, State.setSt_st s _, unchangedBut_setSt s _⟩⟩

end Sys2Proof.Machine

/-!
PROOFS. Encoding (30_encoding.md): the words of the instructions not spelled above, the two round trips between words
and instructions, and the table of rows against the decoder.
-/

namespace Sys2Proof.Machine

/-! Words. -/

theorem decode_word_ret : decode 0x00EE = .ret := by decide

theorem decode_encNnn_sys {nnn : Addr12} (h : sysReserved nnn = false) : decode (encNnn 0x0 nnn) = .sys nnn := by
  have hne : ∀ w : Word, sysReserved (fieldNnn w) = true → encNnn 0x0 nnn ≠ w := fun w hw he => by
    rw [← he, fieldNnn_encNnn, h] at hw
    cases hw
  have hfamily : decode (encNnn 0x0 nnn) = decodeFamily0 (encNnn 0x0 nnn) := by simp [decode]
  rw [hfamily, decodeFamily0, if_neg (hne _ (by decide)), if_neg (hne _ (by decide)), fieldNnn_encNnn]

theorem decode_encNnn_call (nnn : Addr12) : decode (encNnn 0x2 nnn) = .call nnn := by simp [decode]

theorem decode_encXYN_seVxVy (x y : Reg) (n : Nibble) : decode (encXYN 0x5 x y n) = .seVxVy x y n := by
  simp [decode]

theorem decode_encXYN_addVxVy (x y : Reg) : decode (encXYN 0x8 x y 0x4) = .addVxVy x y := by
  simp [decode, decodeFamily8]

theorem decode_encXYN_subVxVy (x y : Reg) : decode (encXYN 0x8 x y 0x5) = .subVxVy x y := by
  simp [decode, decodeFamily8]

theorem decode_encXYN_shrVx (x y : Reg) : decode (encXYN 0x8 x y 0x6) = .shrVx x y := by
  simp [decode, decodeFamily8]

theorem decode_encXYN_subnVxVy (x y : Reg) : decode (encXYN 0x8 x y 0x7) = .subnVxVy x y := by
  simp [decode, decodeFamily8]

theorem decode_encXYN_shlVx (x y : Reg) : decode (encXYN 0x8 x y 0xE) = .shlVx x y := by
  simp [decode, decodeFamily8]

theorem decode_encXYN_nop8 (x y : Reg) {n : Nibble} (h : family8Used n = false) :
    decode (encXYN 0x8 x y n) = .nop8 x y n := by
  have hdispatch := decodeFamily8_of_unused (op := encXYN 0x8 x y n) (by rwa [fieldN_encXYN])
  simpa [decode] using hdispatch

theorem decode_encXYN_sneVxVy (x y : Reg) (n : Nibble) : decode (encXYN 0x9 x y n) = .sneVxVy x y n := by
  simp [decode]

theorem decode_encNnn_jpV0 (nnn : Addr12) : decode (encNnn 0xB nnn) = .jpV0 nnn := by simp [decode]

theorem decode_encXKk_rnd (x : Reg) (kk : Byte) : decode (encXKk 0xC x kk) = .rnd x kk := by simp [decode]

theorem decode_encXYN_drw (x y : Reg) (n : Nibble) : decode (encXYN 0xD x y n) = .drw x y n := by simp [decode]

theorem decode_encXKk_skp (x : Reg) : decode (encXKk 0xE x 0x9E) = .skp x := by simp [decode, decodeFamilyE]

theorem decode_encXKk_sknp (x : Reg) : decode (encXKk 0xE x 0xA1) = .sknp x := by simp [decode, decodeFamilyE]

theorem decode_encXKk_nope (x : Reg) {kk : Byte} (h : familyEUsed kk = false) :
    decode (encXKk 0xE x kk) = .nope x kk := by
  have hdispatch := decodeFamilyE_of_unused (op := encXKk 0xE x kk) (by rwa [fieldKk_encXKk])
  simpa [decode] using hdispatch

theorem decode_encXKk_ldVxK (x : Reg) : decode (encXKk 0xF x 0x0A) = .ldVxK x := by simp [decode, decodeFamilyF]

theorem decode_encXKk_addIVx (x : Reg) : decode (encXKk 0xF x 0x1E) = .addIVx x := by simp [decode, decodeFamilyF]

theorem decode_encXKk_ldMemVx (x : Reg) : decode (encXKk 0xF x 0x55) = .ldMemVx x := by simp [decode, decodeFamilyF]

theorem decode_encXKk_ldVxMem (x : Reg) : decode (encXKk 0xF x 0x65) = .ldVxMem x := by simp [decode, decodeFamilyF]

theorem decode_encXKk_nopf (x : Reg) {kk : Byte} (h : familyFUsed kk = false) :
    decode (encXKk 0xF x kk) = .nopf x kk := by
  have hdispatch := decodeFamilyF_of_unused (op := encXKk 0xF x kk) (by rwa [fieldKk_encXKk])
  simpa [decode] using hdispatch

/-! From an instruction to its word and back. -/

/-- Settles O2: one lemma on the word of each constructor; only the four that share their words' family with other
rows need the check. -/
theorem decodeOfEncodeIsTheInstruction : Obligations.DecodeOfEncodeIsTheInstruction := by
  intro i hwf
  cases i with
  | cls => exact decode_word_cls
  | ret => exact decode_word_ret
  | sys nnn => exact decode_encNnn_sys (Bool.not_eq_true' _ ▸ hwf)
  | jp nnn => exact decode_encNnn_jp nnn
  | call nnn => exact decode_encNnn_call nnn
  | seVxKk x kk => exact decode_encXKk_seVxKk x kk
  | sneVxKk x kk => exact decode_encXKk_sneVxKk x kk
  | seVxVy x y n => exact decode_encXYN_seVxVy x y n
  | ldVxKk x kk => exact decode_encXKk_ldVxKk x kk
  | addVxKk x kk => exact decode_encXKk_addVxKk x kk
  | ldVxVy x y => exact decode_encXYN_ldVxVy x y
  | orVxVy x y => exact decode_encXYN_orVxVy x y
  | andVxVy x y => exact decode_encXYN_andVxVy x y
  | xorVxVy x y => exact decode_encXYN_xorVxVy x y
  | addVxVy x y => exact decode_encXYN_addVxVy x y
  | subVxVy x y => exact decode_encXYN_subVxVy x y
  | shrVx x y => exact decode_encXYN_shrVx x y
  | subnVxVy x y => exact decode_encXYN_subnVxVy x y
  | shlVx x y => exact decode_encXYN_shlVx x y
  | nop8 x y n => exact decode_encXYN_nop8 x y (Bool.not_eq_true' _ ▸ hwf)
  | sneVxVy x y n => exact decode_encXYN_sneVxVy x y n
  | ldINnn nnn => exact decode_encNnn_ldINnn nnn
  | jpV0 nnn => exact decode_encNnn_jpV0 nnn
  | rnd x kk => exact decode_encXKk_rnd x kk
  | drw x y n => exact decode_encXYN_drw x y n
  | skp x => exact decode_encXKk_skp x
  | sknp x => exact decode_encXKk_sknp x
  | nope x kk => exact decode_encXKk_nope x (Bool.not_eq_true' _ ▸ hwf)
  | ldVxDt x => exact decode_encXKk_ldVxDt x
  | ldVxK x => exact decode_encXKk_ldVxK x
  | ldDtVx x => exact decode_encXKk_ldDtVx x
  | ldStVx x => exact decode_encXKk_ldStVx x
  | addIVx x => exact decode_encXKk_addIVx x
  | ldFVx x => exact decode_encXKk_ldFVx x
  | ldBVx x => exact decode_encXKk_ldBVx x
  | ldMemVx x => exact decode_encXKk_ldMemVx x
  | ldVxMem x => exact decode_encXKk_ldVxMem x
  | nopf x kk => exact decode_encXKk_nopf x (Bool.not_eq_true' _ ▸ hwf)

/-! From a word to its instruction and back. -/

theorem encNnn_of_family {op : Word} {hi : Nibble} (h : fieldHi op = hi) : encNnn hi (fieldNnn op) = op :=
  h ▸ encNnn_fields op

theorem encXKk_of_family {op : Word} {hi : Nibble} {kk : Byte} (h : fieldHi op = hi) (hkk : fieldKk op = kk) :
    encXKk hi (fieldX op) kk = op :=
  h ▸ hkk ▸ encXKk_fields op

theorem encXYN_of_family {op : Word} {hi n : Nibble} (h : fieldHi op = hi) (hn : fieldN op = n) :
    encXYN hi (fieldX op) (fieldY op) n = op :=
  h ▸ hn ▸ encXYN_fields op

/-- The decoded instruction is well formed and its word is the given one. -/
def SpellsWord (op : Word) (i : Instr) : Prop := i.wellFormed = true ∧ encode i = op

theorem decodeFamily0_spells {op : Word} (h : fieldHi op = 0x0) : SpellsWord op (decodeFamily0 op) := by
  have hop := encNnn_of_family h
  unfold decodeFamily0
  split_ifs with hcls hret
  · exact ⟨rfl, hcls.symm⟩
  · exact ⟨rfl, hret.symm⟩
  · have hE0 : fieldNnn op ≠ 0x0E0 := fun e => hcls (by rw [← hop, e]; rfl)
    have hEE : fieldNnn op ≠ 0x0EE := fun e => hret (by rw [← hop, e]; rfl)
    have hwf : sysReserved (fieldNnn op) = false := by
      rw [sysReserved, beq_false_of_ne hE0, beq_false_of_ne hEE, Bool.or_false]
    exact ⟨Bool.not_eq_true' _ ▸ hwf, hop⟩

theorem family8Used_iff_mem (n : Nibble) : family8Used n = true ↔ n ∈ [0, 1, 2, 3, 4, 5, 6, 7, 0xE] := by
  revert n
  decide

theorem decodeFamily8_spells {op : Word} (h : fieldHi op = 0x8) : SpellsWord op (decodeFamily8 op) := by
  simp only [decodeFamily8]
  split_ifs
  case neg =>
    have hunused : family8Used (fieldN op) = false := by
      rw [← Bool.not_eq_true, family8Used_iff_mem]
      simp only [*, List.mem_cons, List.not_mem_nil, or_self, not_false_eq_true]
    exact ⟨Bool.not_eq_true' _ ▸ hunused, encXYN_of_family h rfl⟩
  all_goals exact ⟨rfl, encXYN_of_family h ‹_›⟩

theorem decodeFamilyE_spells {op : Word} (h : fieldHi op = 0xE) : SpellsWord op (decodeFamilyE op) := by
  simp only [decodeFamilyE]
  split_ifs
  case neg =>
    have hunused : familyEUsed (fieldKk op) = false := by
      simp only [familyEUsed, beq_false_of_ne, ne_eq, *, not_false_eq_true, Bool.or_self]
    exact ⟨Bool.not_eq_true' _ ▸ hunused, encXKk_of_family h rfl⟩
  all_goals exact ⟨rfl, encXKk_of_family h ‹_›⟩

theorem decodeFamilyF_spells {op : Word} (h : fieldHi op = 0xF) : SpellsWord op (decodeFamilyF op) := by
  simp only [decodeFamilyF]
  split_ifs
  case neg =>
    have hunused : familyFUsed (fieldKk op) = false := by
      simp only [familyFUsed, List.contains_cons, List.contains_nil,
        beq_false_of_ne, ne_eq, *, not_false_eq_true, Bool.or_self]
    exact ⟨Bool.not_eq_true' _ ▸ hunused, encXKk_of_family h rfl⟩
  all_goals exact ⟨rfl, encXKk_of_family h ‹_›⟩

/-- The sixteen families (30_encoding.md R47). -/
theorem family_cases (hi : Nibble) :
    hi = 0x0 ∨ hi = 0x1 ∨ hi = 0x2 ∨ hi = 0x3 ∨ hi = 0x4 ∨ hi = 0x5 ∨ hi = 0x6 ∨ hi = 0x7 ∨ hi = 0x8 ∨ hi = 0x9 ∨
      hi = 0xA ∨ hi = 0xB ∨ hi = 0xC ∨ hi = 0xD ∨ hi = 0xE ∨ hi = 0xF := by
  revert hi
  decide

theorem decode_spells (op : Word) : SpellsWord op (decode op) := by
  obtain h | h | h | h | h | h | h | h | h | h | h | h | h | h | h | h := family_cases (fieldHi op)
  · simpa [decode, h] using decodeFamily0_spells h
  · simpa [decode, h] using ⟨rfl, encNnn_of_family h⟩
  · simpa [decode, h] using ⟨rfl, encNnn_of_family h⟩
  · simpa [decode, h] using ⟨rfl, encXKk_of_family h rfl⟩
  · simpa [decode, h] using ⟨rfl, encXKk_of_family h rfl⟩
  · simpa [decode, h] using ⟨rfl, encXYN_of_family h rfl⟩
  · simpa [decode, h] using ⟨rfl, encXKk_of_family h rfl⟩
  · simpa [decode, h] using ⟨rfl, encXKk_of_family h rfl⟩
  · simpa [decode, h] using decodeFamily8_spells h
  · simpa [decode, h] using ⟨rfl, encXYN_of_family h rfl⟩
  · simpa [decode, h] using ⟨rfl, encNnn_of_family h⟩
  · simpa [decode, h] using ⟨rfl, encNnn_of_family h⟩
  · simpa [decode, h] using ⟨rfl, encXKk_of_family h rfl⟩
  · simpa [decode, h] using ⟨rfl, encXYN_of_family h rfl⟩
  · simpa [decode, h] using decodeFamilyE_spells h
  · simpa [decode, h] using decodeFamilyF_spells h

/-- Settles O3: one lemma for each family with a sub-dispatch, and the fields of the word for the others. -/
theorem encodeOfDecodeIsTheWord : Obligations.EncodeOfDecodeIsTheWord := decode_spells

/-! The table of rows. -/

/-- The first of some rows that a word matches, as the chain of tests that it is. -/
def firstMatch (op : Word) : List OpcodeRow → Option OpcodeRow
  | [] => none
  | r :: rows => if op &&& r.mask = r.pattern then some r else firstMatch op rows

theorem firstRow_eq_firstMatch (op : Word) : firstRow op = firstMatch op opcodeRows := by
  unfold firstRow
  induction opcodeRows with
  | nil => rfl
  | cons r rows ih =>
    by_cases h : op &&& r.mask = r.pattern
    · rw [List.find?_cons_of_pos (by simpa using h), firstMatch, if_pos h]
    · rw [List.find?_cons_of_neg (by simpa using h), firstMatch, if_neg h, ih]

/-- The rows of one family. -/
def familyRows (hi : Nibble) (rows : List OpcodeRow) : List OpcodeRow := rows.filter fun r => fieldHi r.pattern == hi

/-- Where every mask covers the high nibble, a word matches rows of its own family only. -/
theorem firstMatch_familyRows (op : Word) (rows : List OpcodeRow) (hmask : ∀ r ∈ rows, fieldHi r.mask = 0xF) :
    firstMatch op rows = firstMatch op (familyRows (fieldHi op) rows) := by
  induction rows with
  | nil => rfl
  | cons r rows ih =>
    have ih := ih fun q hq => hmask q (List.mem_cons_of_mem r hq)
    by_cases hr : fieldHi r.pattern = fieldHi op
    · rw [familyRows, List.filter_cons_of_pos (by simpa using hr), firstMatch, firstMatch, ih, familyRows]
    · have hne : op &&& r.mask ≠ r.pattern := fun h => hr (by
        rw [← h, fieldHi, BitVec.extractLsb'_and]
        exact (congrArg _ (hmask r List.mem_cons_self)).trans (nibble_and_ones _))
      rw [familyRows, List.filter_cons_of_neg (by simpa using hr), firstMatch, if_neg hne, ih, familyRows]

theorem firstRow_of_family {op : Word} {hi : Nibble} (h : fieldHi op = hi) :
    firstRow op = firstMatch op (familyRows hi opcodeRows) := by
  rw [firstRow_eq_firstMatch, ← h]
  exact firstMatch_familyRows op opcodeRows (by decide)

/-! The three masks of a family's rows, as tests on the fields. -/

theorem and_mask_family {op : Word} {hi : Nibble} (h : fieldHi op = hi) : op &&& 0xF000 = encXKk hi 0 0 := by
  rw [← encXKk_of_family h rfl, encXKk_mask]

theorem and_maskN_eq_iff {op : Word} {hi : Nibble} (h : fieldHi op = hi) (n : Nibble) :
    op &&& 0xF00F = encXYN hi 0 0 n ↔ fieldN op = n := by
  rw [← encXYN_of_family h rfl, encXYN_maskN, fieldN_encXYN]
  exact ⟨fun e => by simpa using congrArg fieldN e, fun e => by rw [e]⟩

theorem and_maskKk_eq_iff {op : Word} {hi : Nibble} (h : fieldHi op = hi) (kk : Byte) :
    op &&& 0xF0FF = encXKk hi 0 kk ↔ fieldKk op = kk := by
  rw [← encXKk_of_family h rfl, encXKk_maskKk, fieldKk_encXKk]
  exact ⟨fun e => by simpa using congrArg fieldKk e, fun e => by rw [e]⟩

/-- The row that a word matches is named after the instruction. -/
def RowNames (row : Option OpcodeRow) (i : Instr) : Prop := row.map OpcodeRow.mnemonic = some i.mnemonic

/-- A family with one row: its mask is the family's. -/
theorem rowNames_of_single {op : Word} {hi : Nibble} {i : Instr} (h : fieldHi op = hi)
    (hrows : familyRows hi opcodeRows = [⟨i.mnemonic, 0xF000, encXKk hi 0 0⟩]) : RowNames (firstRow op) i := by
  rw [firstRow_of_family h, hrows, firstMatch, if_pos (and_mask_family h)]
  rfl

theorem decodeFamily8_row {op : Word} (h : fieldHi op = 0x8) : RowNames (firstRow op) (decodeFamily8 op) := by
  have hrows : familyRows 0x8 opcodeRows =
      [⟨"LD_VX_VY", 0xF00F, encXYN 0x8 0 0 0x0⟩, ⟨"OR", 0xF00F, encXYN 0x8 0 0 0x1⟩,
       ⟨"AND", 0xF00F, encXYN 0x8 0 0 0x2⟩, ⟨"XOR", 0xF00F, encXYN 0x8 0 0 0x3⟩,
       ⟨"ADD_VX_VY", 0xF00F, encXYN 0x8 0 0 0x4⟩, ⟨"SUB", 0xF00F, encXYN 0x8 0 0 0x5⟩,
       ⟨"SHR", 0xF00F, encXYN 0x8 0 0 0x6⟩, ⟨"SUBN", 0xF00F, encXYN 0x8 0 0 0x7⟩,
       ⟨"SHL", 0xF00F, encXYN 0x8 0 0 0xE⟩, ⟨"NOP8", 0xF000, encXKk 0x8 0 0⟩] := by decide
  simp only [firstRow_of_family h, hrows, firstMatch, and_maskN_eq_iff h, and_mask_family h, decodeFamily8, if_true]
  split_ifs <;> rfl

theorem decodeFamilyE_row {op : Word} (h : fieldHi op = 0xE) : RowNames (firstRow op) (decodeFamilyE op) := by
  have hrows : familyRows 0xE opcodeRows =
      [⟨"SKP", 0xF0FF, encXKk 0xE 0 0x9E⟩, ⟨"SKNP", 0xF0FF, encXKk 0xE 0 0xA1⟩,
       ⟨"NOPE", 0xF000, encXKk 0xE 0 0⟩] := by decide
  simp only [firstRow_of_family h, hrows, firstMatch, and_maskKk_eq_iff h, and_mask_family h, decodeFamilyE, if_true]
  split_ifs <;> rfl

theorem decodeFamilyF_row {op : Word} (h : fieldHi op = 0xF) : RowNames (firstRow op) (decodeFamilyF op) := by
  have hrows : familyRows 0xF opcodeRows =
      [⟨"LD_VX_DT", 0xF0FF, encXKk 0xF 0 0x07⟩, ⟨"LD_VX_K", 0xF0FF, encXKk 0xF 0 0x0A⟩,
       ⟨"LD_DT_VX", 0xF0FF, encXKk 0xF 0 0x15⟩, ⟨"LD_ST_VX", 0xF0FF, encXKk 0xF 0 0x18⟩,
       ⟨"ADD_I_VX", 0xF0FF, encXKk 0xF 0 0x1E⟩, ⟨"LD_F_VX", 0xF0FF, encXKk 0xF 0 0x29⟩,
       ⟨"LD_B_VX", 0xF0FF, encXKk 0xF 0 0x33⟩, ⟨"LD_MEM_VX", 0xF0FF, encXKk 0xF 0 0x55⟩,
       ⟨"LD_VX_MEM", 0xF0FF, encXKk 0xF 0 0x65⟩, ⟨"NOPF", 0xF000, encXKk 0xF 0 0⟩] := by decide
  simp only [firstRow_of_family h, hrows, firstMatch, and_maskKk_eq_iff h, and_mask_family h, decodeFamilyF, if_true]
  split_ifs <;> rfl

/-- Family 0 has the two words that are matched whole (90_conflicts.md C4). -/
theorem decodeFamily0_row {op : Word} (h : fieldHi op = 0x0) : RowNames (firstRow op) (decodeFamily0 op) := by
  have hrows : familyRows 0x0 opcodeRows =
      [⟨"CLS", 0xFFFF, 0x00E0⟩, ⟨"RET", 0xFFFF, 0x00EE⟩, ⟨"SYS", 0xF000, encXKk 0x0 0 0⟩] := by decide
  have hall : op &&& 0xFFFF = op := BitVec.and_allOnes
  simp only [firstRow_of_family h, hrows, firstMatch, hall, and_mask_family h, decodeFamily0, if_true]
  split_ifs <;> rfl

/-- Settles O4: family by family; one row, or a chain of tests on the fields that is the decoder's own. -/
theorem decoderPicksTheFirstMatchingRow : Obligations.DecoderPicksTheFirstMatchingRow := by
  intro op
  change RowNames (firstRow op) (decode op)
  obtain h | h | h | h | h | h | h | h | h | h | h | h | h | h | h | h := family_cases (fieldHi op)
  · simpa [decode, h] using decodeFamily0_row h
  · simpa [decode, h] using rowNames_of_single (i := .jp _) h rfl
  · simpa [decode, h] using rowNames_of_single (i := .call _) h rfl
  · simpa [decode, h] using rowNames_of_single (i := .seVxKk _ _) h rfl
  · simpa [decode, h] using rowNames_of_single (i := .sneVxKk _ _) h rfl
  · simpa [decode, h] using rowNames_of_single (i := .seVxVy _ _ _) h rfl
  · simpa [decode, h] using rowNames_of_single (i := .ldVxKk _ _) h rfl
  · simpa [decode, h] using rowNames_of_single (i := .addVxKk _ _) h rfl
  · simpa [decode, h] using decodeFamily8_row h
  · simpa [decode, h] using rowNames_of_single (i := .sneVxVy _ _ _) h rfl
  · simpa [decode, h] using rowNames_of_single (i := .ldINnn _) h rfl
  · simpa [decode, h] using rowNames_of_single (i := .jpV0 _) h rfl
  · simpa [decode, h] using rowNames_of_single (i := .rnd _ _) h rfl
  · simpa [decode, h] using rowNames_of_single (i := .drw _ _ _) h rfl
  · simpa [decode, h] using decodeFamilyE_row h
  · simpa [decode, h] using decodeFamilyF_row h

/-! Words written out. -/

/-- Settles O1: fourteen closed words, each read by the decoder. -/
theorem wordsWrittenOutDecode : Obligations.WordsWrittenOutDecode := by
  unfold Obligations.WordsWrittenOutDecode
  decide

end Sys2Proof.Machine

/-!
PROOFS. What every instruction leaves unchanged (10_state.md, "written by" of each piece), and what follows from it:
every instruction completes, only three conditions fault, and an even PC stays even without jumps.
-/

namespace Sys2Proof.Machine

/-! Frames. -/

theorem Piece.same_trans {p : Piece} {s t u : State} (h : p.same s t) (h' : p.same t u) : p.same s u := by
  cases p
  case stack => exact fun j => (h' j).trans (h j)
  case keys => exact fun k => (h' k).trans (h k)
  case pix => exact fun row col => (h' row col).trans (h row col)
  case mem => exact fun a => (h' a).trans (h a)
  all_goals exact Eq.trans h' h

theorem UnchangedBut.trans {rs rs' : List Reg} {ps ps' : List Piece} {s t u : State}
    (h : UnchangedBut rs ps s t) (h' : UnchangedBut rs' ps' t u) : UnchangedBut (rs ++ rs') (ps ++ ps') s u := by
  obtain ⟨hregs, hpieces⟩ := h
  obtain ⟨hregs', hpieces'⟩ := h'
  refine ⟨fun r hr => ?_, fun p hp => ?_⟩
  · rw [List.mem_append, not_or] at hr
    exact (hregs' r hr.2).trans (hregs r hr.1)
  · rw [List.mem_append, not_or] at hp
    exact Piece.same_trans (hpieces p hp.1) (hpieces' p hp.2)

theorem UnchangedBut.mono {rs rs' : List Reg} {ps ps' : List Piece} {s t : State} (h : UnchangedBut rs ps s t)
    (hrs : rs ⊆ rs') (hps : ps ⊆ ps') : UnchangedBut rs' ps' s t :=
  ⟨fun r hr => h.1 r (fun hmem => hr (hrs hmem)), fun p hp => h.2 p (fun hmem => hp (hps hmem))⟩

theorem unchangedBut_setSp (s : State) (p : Option StackIndex) : UnchangedBut [] [.sp] s (s.setSp p) := by
  refine ⟨fun _ _ => rfl, fun q hq => ?_⟩
  cases q
  case sp => simp at hq
  all_goals simp [Piece.same]

theorem unchangedBut_setStack (s : State) (j : StackIndex) (w : Word) :
    UnchangedBut [] [.stack] s (s.setStack j w) := by
  refine ⟨fun _ _ => rfl, fun p hp => ?_⟩
  cases p
  case stack => simp at hp
  all_goals simp [Piece.same]

theorem unchangedBut_setFault (s : State) (c : FaultLatch) : UnchangedBut [] [.fault] s (s.setFault c) := by
  refine ⟨fun _ _ => rfl, fun p hp => ?_⟩
  cases p
  case fault => simp at hp
  all_goals simp [Piece.same]

theorem unchangedBut_setWait (s : State) (w : Wait) : UnchangedBut [] [.wait] s (s.setWait w) := by
  refine ⟨fun _ _ => rfl, fun p hp => ?_⟩
  cases p
  case wait => simp at hp
  all_goals simp [Piece.same]

theorem unchangedBut_setDraws (s : State) (n : Nat) : UnchangedBut [] [.draws] s (s.setDraws n) := by
  refine ⟨fun _ _ => rfl, fun p hp => ?_⟩
  cases p
  case draws => simp at hp
  all_goals simp [Piece.same]

theorem unchangedBut_setKeys (s : State) (new : Vector Bool 16) : UnchangedBut [] [.keys] s (s.setKeys new) := by
  refine ⟨fun _ _ => rfl, fun p hp => ?_⟩
  cases p
  case keys => simp at hp
  all_goals simp [Piece.same]

theorem unchangedBut_setAgenda (s : State) (es : List Event) : UnchangedBut [] [.agenda] s (s.setAgenda es) := by
  refine ⟨fun _ _ => rfl, fun p hp => ?_⟩
  cases p
  case agenda => simp at hp
  all_goals simp [Piece.same]

/-- The flag writers write VF and then V[x] (41_alu.md R66). -/
theorem unchangedBut_flag_result (s : State) (x : Reg) (flag result : Byte) :
    UnchangedBut [x, regVF] [] s ((s.setV regVF flag).setV x result) :=
  ((unchangedBut_setV s regVF flag).trans (unchangedBut_setV _ x result)).mono (by simp) (by simp)

theorem unchangedBut_loadGroup (src : State) (rs : List Reg) (t : State) :
    UnchangedBut rs [] t { t with v := (loadGroup src rs t).v } := by
  rw [← loadGroup_eq]
  induction rs generalizing t with
  | nil => exact unchangedBut_refl [] [] t
  | cons r rs ih => exact ((unchangedBut_setV t r _).trans (ih _)).mono (by simp) (by simp)

/-! Each instruction answers a next state within its frame. -/

/-- An instruction completes and writes only what is listed for it. -/
def CompletesInFrame (i : Instr) (s : State) : Prop :=
  ∃ t, exec i s = .next t ∧ UnchangedBut (writesRegs i) (writesPieces i) s t

theorem ret_completesInFrame (s : State) : CompletesInFrame .ret s := by
  cases hsp : s.sp with
  | none =>
    exact ⟨_, exec_ret_empty s hsp, (unchangedBut_setFault s _).mono (by simp) (by simp [writesPieces])⟩
  | some j =>
    exact ⟨_, exec_ret_top s hsp,
      ((unchangedBut_setPc s _).trans (unchangedBut_setSp _ _)).mono (by simp) (by simp [writesPieces])⟩

theorem call_completesInFrame (s : State) (nnn : Addr12) : CompletesInFrame (.call nnn) s := by
  cases hslot : pushSlot s.sp with
  | none =>
    exact ⟨_, exec_call_full s nnn hslot, (unchangedBut_setFault s _).mono (by simp) (by simp [writesPieces])⟩
  | some j =>
    exact ⟨_, exec_call_room s nnn hslot,
      (((unchangedBut_setSp s _).trans (unchangedBut_setStack _ j _)).trans (unchangedBut_setPc _ _)).mono (by simp)
        (by simp [writesPieces])⟩

/-- What Ex9E and ExA1 have in common: fault 3 without a key, else a skip on a level of the key (44_timers_keys.md
R93, R94). -/
def SkipsOnKey (i : Instr) (x : Reg) (level : Bool) : Prop :=
  ∀ s : State, (keyIndex (s.getV x) = none → exec i s = .next (s.setFault .keyIndexOutOfRange)) ∧
    ∀ k, keyIndex (s.getV x) = some k → exec i s = .next (s.setPc (if s.getKey k = level then s.pc + 2 else s.pc))

theorem skp_skipsOnKey (x : Reg) : SkipsOnKey (.skp x) x true := fun s =>
  ⟨exec_skp_fault s x, fun _ => exec_skp_key s x⟩

theorem sknp_skipsOnKey (x : Reg) : SkipsOnKey (.sknp x) x false := by
  refine fun s => ⟨exec_sknp_fault s x, fun k hk => ?_⟩
  rw [exec_sknp_key s x hk]
  cases s.getKey k <;> rfl

theorem keySkip_completes {i : Instr} {x : Reg} {level : Bool} (hi : SkipsOnKey i x level) (s : State) :
    ∃ t, exec i s = .next t ∧ UnchangedBut [] [.pc, .fault] s t := by
  obtain ⟨hfault, hskip⟩ := hi s
  cases hkey : keyIndex (s.getV x) with
  | none => exact ⟨_, hfault hkey, (unchangedBut_setFault s _).mono (by simp) (by simp)⟩
  | some k => exact ⟨_, hskip k hkey, (unchangedBut_setPc s _).mono (by simp) (by simp)⟩

theorem exec_completesInFrame (i : Instr) (s : State) : CompletesInFrame i s := by
  cases i with
  | cls => exact ⟨_, exec_cls s, unchangedBut_setPix s _⟩
  | ret => exact ret_completesInFrame s
  | sys nnn => exact ⟨_, exec_sys s nnn, unchangedBut_setPc s _⟩
  | jp nnn => exact ⟨_, exec_jp s nnn, unchangedBut_setPc s _⟩
  | call nnn => exact call_completesInFrame s nnn
  | seVxKk x kk => exact ⟨_, exec_seVxKk s x kk, unchangedBut_setPc s _⟩
  | sneVxKk x kk => exact ⟨_, exec_sneVxKk s x kk, unchangedBut_setPc s _⟩
  | seVxVy x y n => exact ⟨_, exec_seVxVy s x y n, unchangedBut_setPc s _⟩
  | ldVxKk x kk => exact ⟨_, exec_ldVxKk s x kk, unchangedBut_setV s x _⟩
  | addVxKk x kk => exact ⟨_, exec_addVxKk s x kk, unchangedBut_setV s x _⟩
  | ldVxVy x y => exact ⟨_, exec_ldVxVy s x y, unchangedBut_setV s x _⟩
  | orVxVy x y => exact ⟨_, exec_orVxVy s x y, unchangedBut_setV s x _⟩
  | andVxVy x y => exact ⟨_, exec_andVxVy s x y, unchangedBut_setV s x _⟩
  | xorVxVy x y => exact ⟨_, exec_xorVxVy s x y, unchangedBut_setV s x _⟩
  | addVxVy x y => exact ⟨_, exec_addVxVy s x y, unchangedBut_flag_result s x _ _⟩
  | subVxVy x y => exact ⟨_, exec_subVxVy s x y, unchangedBut_flag_result s x _ _⟩
  | shrVx x y => exact ⟨_, exec_shrVx s x y, unchangedBut_flag_result s x _ _⟩
  | subnVxVy x y => exact ⟨_, exec_subnVxVy s x y, unchangedBut_flag_result s x _ _⟩
  | shlVx x y => exact ⟨_, exec_shlVx s x y, shiftLeft_eq s x true ▸ unchangedBut_flag_result s x _ _⟩
  | nop8 x y n => exact ⟨_, exec_nop8 s x y n, unchangedBut_refl _ _ s⟩
  | sneVxVy x y n => exact ⟨_, exec_sneVxVy s x y n, unchangedBut_setPc s _⟩
  | ldINnn nnn => exact ⟨_, exec_ldINnn s nnn, unchangedBut_setI s _⟩
  | jpV0 nnn => exact ⟨_, exec_jpV0 s nnn, unchangedBut_setPc s _⟩
  | rnd x kk => exact ⟨_, exec_rnd s x kk, (unchangedBut_setDraws s _).trans (unchangedBut_setV _ x _)⟩
  | drw x y n => exact ⟨_, exec_drw s x y n, (unchangedBut_setPix s _).trans (unchangedBut_setV _ regVF _)⟩
  | skp x => exact keySkip_completes (skp_skipsOnKey x) s
  | sknp x => exact keySkip_completes (sknp_skipsOnKey x) s
  | nope x kk => exact ⟨_, exec_nope s x kk, unchangedBut_refl _ _ s⟩
  | ldVxDt x => exact ⟨_, exec_ldVxDt s x, unchangedBut_setV s x _⟩
  | ldVxK x => exact ⟨_, exec_ldVxK s x, unchangedBut_setWait s _⟩
  | ldDtVx x => exact ⟨_, exec_ldDtVx s x, unchangedBut_setDt s _⟩
  | ldStVx x => exact ⟨_, exec_ldStVx s x, unchangedBut_setSt s _⟩
  | addIVx x => exact ⟨_, exec_addIVx s x, (unchangedBut_setV s regVF _).trans (unchangedBut_setI _ _)⟩
  | ldFVx x => exact ⟨_, exec_ldFVx s x, unchangedBut_setI s _⟩
  | ldBVx x => exact ⟨_, exec_ldBVx s x, unchangedBut_memStore s _ _⟩
  | ldMemVx x => exact ⟨_, exec_ldMemVx s x, (unchangedBut_memStore s _ _).trans (unchangedBut_setI _ _)⟩
  | ldVxMem x =>
    exact ⟨_, exec_ldVxMem s x,
      ((unchangedBut_loadGroup s (regsUpTo x) s).trans (unchangedBut_setI _ _)).mono (by simp [writesRegs])
        (by simp [writesPieces])⟩
  | nopf x kk => exact ⟨_, exec_nopf s x kk, unchangedBut_refl _ _ s⟩

theorem exec_completes (i : Instr) (s : State) : ∃ t, exec i s = .next t := by
  obtain ⟨t, hexec, -⟩ := exec_completesInFrame i s
  exact ⟨t, hexec⟩

/-- Settles O55: the frame of each constructor, for the one state that the instruction answers. -/
theorem everyInstructionKeepsItsFrame : Obligations.EveryInstructionKeepsItsFrame := by
  intro i s t h
  obtain ⟨u, hexec, hframe⟩ := exec_completesInFrame i s
  cases h.symm.trans hexec
  exact hframe

theorem frame_of_exec {i : Instr} {s t : State} (h : exec i s = .next t) {p : Piece} (hp : p ∉ writesPieces i) :
    p.same s t :=
  (everyInstructionKeepsItsFrame i s t h).2 p hp

/-! Every event completes but an overlong Reset. -/

theorem stepEvent_completes (s : State) : ∃ t, stepEvent s = .next t := by
  by_cases hheld : s.held = true
  · exact ⟨s, stepEvent_of_held hheld⟩
  · rw [stepEvent_of_running (Bool.not_eq_true _ ▸ hheld)]
    exact exec_completes _ _

theorem stepWith_of_stepEvent {rnd : Byte} {s t : State} (h : stepEvent (s.setRndPort (some rnd)) = .next t) :
    stepWith rnd s = .next (t.setRndPort s.rndPort) := by
  rw [stepWith, h]

theorem resetEvent_of_fits {rom : List Byte} (h : rom.length ≤ 3584) (s : State) :
    resetEvent rom s = .next (s.boot font rom) :=
  if_pos h

theorem resetEvent_of_overlong {rom : List Byte} (h : 3584 < rom.length) (s : State) :
    resetEvent rom s = .refused (.romTooLong rom.length) :=
  if_neg (Nat.not_le_of_lt h)

theorem issue_completes_or_refuses (e : Event) (s : State) :
    (∃ t, issue e s = .next t) ∨
      ∃ rom, e = .reset rom ∧ 3584 < rom.length ∧ issue e s = .refused (.romTooLong rom.length) := by
  cases e with
  | reset rom =>
    obtain hlong | hfits := Nat.lt_or_ge 3584 rom.length
    · exact .inr ⟨rom, rfl, hlong, resetEvent_of_overlong hlong s⟩
    · exact .inl ⟨_, resetEvent_of_fits hfits s⟩
  | step rnd =>
    obtain ⟨t, ht⟩ := stepEvent_completes (s.setRndPort (some rnd))
    exact .inl ⟨_, stepWith_of_stepEvent ht⟩
  | tick => exact .inl ⟨_, rfl⟩
  | tickBatch k => exact .inl ⟨_, rfl⟩
  | keySample new => exact .inl ⟨_, rfl⟩
  | readout => exact .inl ⟨_, rfl⟩

/-- Settles O54: every meaning answers a next state, so of the events only Reset can refuse. -/
theorem nothingStopsButAnOverlongRom : Obligations.NothingStopsButAnOverlongRom := by
  refine ⟨exec_completes, fun s => ?_⟩
  obtain ⟨-, -, hstep⟩ | ⟨e, es, m, hup, hstep⟩ := step_of_upcoming s
  · exact .inl (hstep ▸ stepEvent_completes s)
  · rw [hstep, hup]
    obtain hnext | ⟨rom, rfl, hlong, hrefused⟩ := issue_completes_or_refuses e ((s.setAgenda es).setEnv m)
    · exact .inl hnext
    · exact .inr ⟨rom, rfl, hlong, hrefused⟩

/-- Settles O12: the event is a Reset that refuses. -/
theorem overlongRomIsRefused : Obligations.OverlongRomIsRefused := fun s _ rest hlong hagenda =>
  (step_of_cons hagenda).trans (resetEvent_of_overlong hlong (s.setAgenda rest))

/-! Faults. -/

theorem spValue_eq_neg_one_iff (p : Option StackIndex) : spValue p = -1 ↔ p = none := by
  cases p with
  | none => simp [spValue]
  | some j => simp [spValue]

theorem keyIndex_eq_none_iff (b : Byte) : keyIndex b = none ↔ 15 < b.toNat := by
  refine ⟨fun h => ?_, keyIndex_of_ge⟩
  by_contra hlt
  rw [keyIndex_of_lt (by omega)] at h
  cases h

theorem ret_faults {s t : State} (hs : s.fault = .none) (h : exec .ret s = .next t) (ht : t.fault ≠ .none) :
    s.sp = none ∧ t.fault = .stackUnderflow := by
  cases hsp : s.sp with
  | none => cases (exec_ret_empty s hsp).symm.trans h; exact ⟨rfl, rfl⟩
  | some j => cases (exec_ret_top s hsp).symm.trans h; exact absurd hs ht

theorem call_faults {s t : State} {nnn : Addr12} (hs : s.fault = .none) (h : exec (.call nnn) s = .next t)
    (ht : t.fault ≠ .none) : pushSlot s.sp = none ∧ t.fault = .stackOverflow := by
  cases hslot : pushSlot s.sp with
  | none => cases (exec_call_full s nnn hslot).symm.trans h; exact ⟨rfl, rfl⟩
  | some j => cases (exec_call_room s nnn hslot).symm.trans h; exact absurd hs ht

theorem keySkip_faults {i : Instr} {x : Reg} {level : Bool} (hi : SkipsOnKey i x level) {s t : State}
    (hs : s.fault = .none) (h : exec i s = .next t) (ht : t.fault ≠ .none) :
    15 < (s.getV x).toNat ∧ t.fault.code = 3 := by
  obtain ⟨hfault, hskip⟩ := hi s
  cases hkey : keyIndex (s.getV x) with
  | none => cases (hfault hkey).symm.trans h; exact ⟨(keyIndex_eq_none_iff _).1 hkey, rfl⟩
  | some k => cases (hskip k hkey).symm.trans h; exact absurd hs ht

/-- Settles O33: an instruction outside the four does not list the latch in its frame. -/
theorem onlyThreeConditionsFault : Obligations.OnlyThreeConditionsFault := by
  intro i s t hs h ht
  have hlisted : Piece.fault ∈ writesPieces i := by
    by_contra hp
    exact ht ((frame_of_exec h hp).trans hs)
  cases i
  case ret =>
    obtain ⟨hsp, hfault⟩ := ret_faults hs h ht
    exact .inl ⟨rfl, (spValue_eq_neg_one_iff _).2 hsp, hfault ▸ rfl⟩
  case call nnn =>
    obtain ⟨hslot, hfault⟩ := call_faults hs h ht
    exact .inr (.inl ⟨⟨nnn, rfl⟩, (pushSlot_eq_none _).1 hslot, hfault ▸ rfl⟩)
  case skp x =>
    obtain ⟨hlarge, hcode⟩ := keySkip_faults (skp_skipsOnKey x) hs h ht
    exact .inr (.inr ⟨⟨x, .inl rfl, hlarge⟩, hcode⟩)
  case sknp x =>
    obtain ⟨hlarge, hcode⟩ := keySkip_faults (sknp_skipsOnKey x) hs h ht
    exact .inr (.inr ⟨⟨x, .inr rfl, hlarge⟩, hcode⟩)
  all_goals simp [writesPieces] at hlisted

/-! PC without jumps. -/

theorem pc_of_skip {i : Instr} {s t : State} {p : Prop} [Decidable p]
    (h : exec i s = .next (s.setPc (if p then s.pc + 2 else s.pc))) (ht : exec i s = .next t) :
    t.pc = s.pc ∨ t.pc = s.pc + 2 := by
  cases h.symm.trans ht
  rw [State.setPc_pc]
  split_ifs
  · exact .inr rfl
  · exact .inl rfl

theorem pc_of_keySkip {i : Instr} {x : Reg} {level : Bool} (hi : SkipsOnKey i x level) {s t : State}
    (h : exec i s = .next t) : t.pc = s.pc ∨ t.pc = s.pc + 2 := by
  obtain ⟨hfault, hskip⟩ := hi s
  cases hkey : keyIndex (s.getV x) with
  | none => cases (hfault hkey).symm.trans h; exact .inl rfl
  | some k => exact pc_of_skip (hskip k hkey) h

/-- An instruction that is no jump, call or return leaves PC as it is or skips. -/
theorem exec_pc_of_no_jump {i : Instr} {s t : State} (hi : setsPc i = false) (h : exec i s = .next t) :
    t.pc = s.pc ∨ t.pc = s.pc + 2 := by
  by_cases hp : Piece.pc ∈ writesPieces i
  · cases i
    case seVxKk x kk => exact pc_of_skip (exec_seVxKk s x kk) h
    case sneVxKk x kk => exact pc_of_skip (exec_sneVxKk s x kk) h
    case seVxVy x y n => exact pc_of_skip (exec_seVxVy s x y n) h
    case sneVxVy x y n => exact pc_of_skip (exec_sneVxVy s x y n) h
    case skp x => exact pc_of_keySkip (skp_skipsOnKey x) h
    case sknp x => exact pc_of_keySkip (sknp_skipsOnKey x) h
    all_goals simp_all [writesPieces, setsPc]
  · exact .inl (frame_of_exec h hp)

theorem even_add_two {w : Word} (h : w.toNat % 2 = 0) : (w + 2).toNat % 2 = 0 := by
  have h2 : (2 : Word).toNat = 2 := rfl
  rw [BitVec.toNat_add, h2]
  omega

/-- Settles O56: PC moves by 2 once or twice, and the wrap at 65536 keeps the parity. -/
theorem pcStaysEvenWithoutJumps : Obligations.PcStaysEvenWithoutJumps := by
  intro s t hrun hi heven hstep
  rw [step_of_running hrun] at hstep
  obtain hpc | hpc := exec_pc_of_no_jump hi hstep
  · rw [hpc]
    exact even_add_two heven
  · rw [hpc]
    exact even_add_two (even_add_two heven)

end Sys2Proof.Machine

/-!
PROOFS. Events and invariants: what an issued event can do, the invariant of every step, held machines, the key wait,
the fault latch, ticks and key samples (30_encoding.md R53, 60_exceptions.md R107 to R117).
-/

namespace Sys2Proof.Machine

/-! What an event can do. -/

/-- A key sample replaces the levels; with a wait and an answer of the tie-break it also delivers that key. -/
theorem keySampleWith_cases (tiebreak : List KeyCode → Option KeyCode) (new : Vector Bool 16) (s : State) :
    (keySampleWith tiebreak new s = s.setKeys new ∧
        (s.wait.active = false ∨ tiebreak (risingEdges s.keys new) = none)) ∨
      ∃ k, s.wait.active = true ∧ tiebreak (risingEdges s.keys new) = some k ∧
        keySampleWith tiebreak new s =
          ((s.setKeys new).setV s.wait.target (BitVec.ofNat 8 k.val)).setWait { s.wait with active := false } := by
  by_cases hw : s.wait.active = true
  · cases hk : tiebreak (risingEdges s.keys new) with
    | none => exact .inl ⟨by simp [keySampleWith, hw, hk], .inr rfl⟩
    | some k => exact .inr ⟨k, hw, rfl, by simp [keySampleWith, hw, hk]⟩
  · exact .inl ⟨by simp [keySampleWith, hw], .inl (Bool.not_eq_true _ ▸ hw)⟩

/-- An issued event that goes on is a Reset, a Step, a change of the two timers at most, or a key sample. -/
theorem issue_next_cases {e : Event} {s t : State} (h : issue e s = .next t) :
    (∃ rom, e = .reset rom ∧ t = s.boot font rom) ∨
      (∃ rnd u, e = .step rnd ∧ stepEvent (s.setRndPort (some rnd)) = .next u ∧ t = u.setRndPort s.rndPort) ∨
      (∃ a b, t = (s.setDt a).setSt b) ∨
      ∃ new, e = .keySample new ∧ t = keySampleEvent new s := by
  cases e with
  | reset rom => exact .inl ⟨rom, rfl, (resetEvent_next h).2⟩
  | step rnd =>
    obtain ⟨u, hu, ht⟩ := stepWith_next h
    exact .inr (.inl ⟨rnd, u, rfl, hu, ht⟩)
  | tick => cases h; exact .inr (.inr (.inl ⟨_, _, rfl⟩))
  | tickBatch k => cases h; exact .inr (.inr (.inl (tickBatch_frame k s)))
  | keySample new => cases h; exact .inr (.inr (.inr ⟨new, rfl, rfl⟩))
  | readout => cases h; exact .inr (.inr (.inl ⟨s.dt, s.st, rfl⟩))

/-! The invariant. -/

theorem stepEvent_keeps_inv {s t : State} (hs : s.inv) (h : stepEvent s = .next t) : t.inv := by
  obtain ⟨-, rfl⟩ | ⟨hfault, hwait, hexec⟩ := stepEvent_next h
  · exact hs
  obtain ⟨hwf, -⟩ := hs
  obtain ⟨hm, hf, hw⟩ | ⟨hm, hw, -⟩ | ⟨hm, hf, -, -, -⟩ | ⟨hf, hw, a, bs, hm⟩ := exec_cases hexec
  · exact ⟨hm ▸ hwf, fun hboth => by simp [hw, hwait] at hboth⟩
  · exact ⟨hm ▸ hwf, fun hboth => by simp [hw, hwait] at hboth⟩
  · exact ⟨hm ▸ hwf, fun hboth => hboth.2 (hf.trans hfault)⟩
  · exact ⟨hm ▸ Memory.wf_storeBytes bs _ a hwf, fun hboth => by simp [hw, hwait] at hboth⟩

theorem keySampleEvent_keeps_inv {s : State} (hs : s.inv) (new : Vector Bool 16) : (keySampleEvent new s).inv := by
  obtain ⟨hwf, hlatches⟩ := hs
  unfold keySampleEvent
  obtain ⟨ht, -⟩ | ⟨k, -, -, ht⟩ := keySampleWith_cases keyTiebreak new s
  · rw [ht]
    exact ⟨hwf, hlatches⟩
  · rw [ht]
    exact ⟨hwf, fun hboth => Bool.false_ne_true hboth.1⟩

theorem boot_inv (glyphs rom : List Byte) (s : State) : (s.boot glyphs rom).inv :=
  ⟨Memory.wf_storeBytes _ _ _ (Memory.wf_storeBytes _ _ _ Memory.wf_nil), fun hboth => Bool.false_ne_true hboth.1⟩

theorem issue_keeps_inv {e : Event} {s t : State} (hs : s.inv) (h : issue e s = .next t) : t.inv := by
  obtain ⟨rom, -, rfl⟩ | ⟨rnd, u, -, hu, rfl⟩ | ⟨a, b, rfl⟩ | ⟨new, -, rfl⟩ := issue_next_cases h
  · exact boot_inv font rom s
  · exact stepEvent_keeps_inv (s := s.setRndPort (some rnd)) (t := u) hs hu
  · exact hs
  · exact keySampleEvent_keeps_inv hs new

/-- Settles O14: an instruction that runs starts with both latches clear and sets at most one, and every store keeps
the canonical form; no other event but a Reset touches memory or sets a latch. -/
theorem everyStepKeepsTheInvariant : Obligations.EveryStepKeepsTheInvariant := by
  intro s t hs h
  obtain ⟨-, -, hstep⟩ | ⟨e, es, m, -, hstep⟩ := step_of_upcoming s
  · exact stepEvent_keeps_inv hs (hstep ▸ h)
  · exact issue_keeps_inv (s := (s.setAgenda es).setEnv m) hs (hstep ▸ h)

/-- Settles O13: nothing is listed in the reset memory, and no wait is on. -/
theorem invariantHoldsAtReset : Obligations.InvariantHoldsAtReset :=
  ⟨Memory.wf_nil, fun hboth => Bool.false_ne_true hboth.1⟩

/-! Running Steps. -/

/-- Settles O5: the two bytes at PC are the fetched word. -/
theorem stepRunsTheDecodedInstruction : Obligations.StepRunsTheDecodedInstruction := by
  rintro s _ _ hrun rfl rfl
  exact step_of_running hrun

/-- Settles O6: the meaning completes on the state with the byte driven, and the port is put back. -/
theorem issuedStepRunsWithItsRandomByte : Obligations.IssuedStepRunsWithItsRandomByte := by
  intro s rnd rest hagenda hfault hwait
  obtain ⟨t, hexec⟩ := exec_completes (decode s.fetchWord) (((s.setAgenda rest).setRndPort (some rnd)).setPc (s.pc + 2))
  have hrun : stepEvent ((s.setAgenda rest).setRndPort (some rnd)) = .next t :=
    (stepEvent_of_running ((held_eq_false ((s.setAgenda rest).setRndPort (some rnd))).2 ⟨hfault, hwait⟩)).trans hexec
  exact ⟨t, hexec, (step_of_cons hagenda).trans (stepWith_of_stepEvent hrun)⟩

/-! Held machines. -/

theorem held_of_latch {s : State} (h : s.fault ≠ .none ∨ s.wait.active = true) : s.held = true := by
  simpa [State.held] using h

theorem stepWith_of_held {s : State} (h : s.held = true) (rnd : Byte) : stepWith rnd s = .next s :=
  stepWith_of_stepEvent (t := s.setRndPort (some rnd)) (stepEvent_of_held h)

theorem run_of_held {s : State} (hagenda : s.agenda = []) (henv : s.env = .steps) (h : s.held = true) (k : Nat) :
    Host.Core.run Sys2Proof.core k s = .next s :=
  run_of_fixed ((step_of_steps hagenda henv).trans (stepEvent_of_held h)) k

/-- Settles O7: a held Step is the identity, so every number of them is. -/
theorem heldMachineKeepsItsState : Obligations.HeldMachineKeepsItsState :=
  ⟨fun k _ hagenda henv h => run_of_held hagenda henv (held_of_latch h) k,
    fun s rnd rest hagenda h =>
      (step_of_cons hagenda).trans (stepWith_of_held (s := s.setAgenda rest) (held_of_latch h) rnd)⟩

/-- The step that latches a fault is the last one that changes anything. -/
theorem run_of_faulting {s : State} {c : FaultLatch} (hrun : s.running) (hc : c ≠ .none)
    (h : exec (decode s.fetchWord) (s.setPc (s.pc + 2)) = .next ((s.setPc (s.pc + 2)).setFault c)) (k : Nat) :
    Host.Core.run Sys2Proof.core (k + 1) s = .next { s with pc := s.pc + 2, fault := c } := by
  rw [run_succ_of_next k ((step_of_running hrun).trans h)]
  obtain ⟨hagenda, henv, -, -⟩ := hrun
  exact run_of_held (s := (s.setPc (s.pc + 2)).setFault c) hagenda henv (held_of_latch (.inl hc)) k

/-- Settles O32: each of the three faults enters by one write of the latch. -/
theorem faultingStepIsPreciseAndFinal : Obligations.FaultingStepIsPreciseAndFinal := by
  refine fun s k hrun => ⟨fun hi hsp => ?_, fun nnn hi hsp => ?_, fun x hi hx => ?_⟩
  · refine run_of_faulting hrun (by decide) ?_ k
    rw [hi]
    exact exec_ret_empty _ ((spValue_eq_neg_one_iff s.sp).1 hsp)
  · refine run_of_faulting hrun (by decide) ?_ k
    rw [hi]
    exact exec_call_full _ nnn ((pushSlot_eq_none s.sp).2 hsp)
  · have hkey : keyIndex (s.getV x) = none := (keyIndex_eq_none_iff _).2 hx
    refine run_of_faulting hrun (by decide) ?_ k
    obtain hi | hi := hi
    · rw [hi]
      exact (skp_skipsOnKey x _).1 hkey
    · rw [hi]
      exact (sknp_skipsOnKey x _).1 hkey

theorem stepEvent_keeps_fault {s t : State} (hs : s.fault ≠ .none) (h : stepEvent s = .next t) : t.fault = s.fault := by
  rw [stepEvent_of_held (held_of_latch (.inl hs))] at h
  cases h
  rfl

theorem keySampleEvent_fault (new : Vector Bool 16) (s : State) : (keySampleEvent new s).fault = s.fault := by
  unfold keySampleEvent
  obtain ⟨ht, -⟩ | ⟨k, -, -, ht⟩ := keySampleWith_cases keyTiebreak new s
  · rw [ht]
    rfl
  · rw [ht]
    rfl

/-- Settles O34: a Step is held, and of the other events only a Reset writes the latch. -/
theorem faultStaysUntilReset : Obligations.FaultStaysUntilReset := by
  intro s t hs h hreset
  obtain ⟨-, -, hstep⟩ | ⟨e, es, m, hup, hstep⟩ := step_of_upcoming s
  · exact stepEvent_keeps_fault hs (hstep ▸ h)
  · rw [hstep] at h
    obtain ⟨rom, rfl, -⟩ | ⟨rnd, u, -, hu, rfl⟩ | ⟨a, b, rfl⟩ | ⟨new, -, rfl⟩ := issue_next_cases h
    · exact absurd hup (hreset rom)
    · exact stepEvent_keeps_fault (s := ((s.setAgenda es).setEnv m).setRndPort (some rnd)) (t := u) hs hu
    · rfl
    · exact keySampleEvent_fault new _

/-! Entering and leaving a key wait. -/

/-- A Step enters a wait only by running Fx0A, without a fault. -/
theorem stepEvent_enters_wait {s t : State} (hs : s.wait.active = false) (h : stepEvent s = .next t)
    (ht : t.wait.active = true) : decode s.fetchWord = .ldVxK t.wait.target ∧ s.fault = .none := by
  obtain ⟨-, rfl⟩ | ⟨hfault, -, hexec⟩ := stepEvent_next h
  · exact absurd ht (by simp [hs])
  obtain ⟨-, -, hw⟩ | ⟨-, hw, -⟩ | ⟨-, -, x, hi, hw⟩ | ⟨-, hw, -⟩ := exec_cases hexec
  · exact absurd ht (by simp [hw, hs])
  · exact absurd ht (by simp [hw, hs])
  · exact ⟨by rw [hi, hw], hfault⟩
  · exact absurd ht (by simp [hw, hs])

theorem stepEvent_keeps_active_wait {s t : State} (hs : s.wait.active = true) (h : stepEvent s = .next t) :
    t.wait.active = true := by
  rw [stepEvent_of_held (held_of_latch (.inr hs))] at h
  cases h
  exact hs

theorem keySampleEvent_of_no_wait {s : State} (hs : s.wait.active = false) (new : Vector Bool 16) :
    keySampleEvent new s = s.setKeys new := by
  obtain ⟨ht, -⟩ | ⟨k, hw, -, -⟩ := keySampleWith_cases keyTiebreak new s
  · exact ht
  · exact absurd hw (by simp [hs])

theorem keySampleEvent_of_no_edge {s : State} {new : Vector Bool 16} (h : risingEdges s.keys new = []) :
    keySampleEvent new s = s.setKeys new := by
  obtain ⟨ht, -⟩ | ⟨k, -, hk, -⟩ := keySampleWith_cases keyTiebreak new s
  · exact ht
  · rw [h, keyTiebreak_nil] at hk
    cases hk

theorem keySampleEvent_leaves_wait {s : State} {new : Vector Bool 16} (hs : s.wait.active = true)
    (ht : (keySampleEvent new s).wait.active = false) : ∃ k : KeyCode, s.getKey k = false ∧ new[k] = true := by
  have hedges : risingEdges s.keys new ≠ [] := fun hnil => by
    rw [keySampleEvent_of_no_edge hnil] at ht
    exact absurd (ht.symm.trans hs) Bool.false_ne_true
  obtain ⟨k, hk⟩ := List.exists_mem_of_ne_nil _ hedges
  exact ⟨k, (mem_risingEdges s.keys new k).1 hk⟩

/-- Settles O41: of the events only a Step sets the latch, and only a Reset and a key sample clear it. -/
theorem keyWaitIsEnteredAndLeftOnlyAsSpecified : Obligations.KeyWaitIsEnteredAndLeftOnlyAsSpecified := by
  refine ⟨fun s t hs h ht => ?_, fun s t hs h ht => ?_⟩
  · obtain ⟨hup, -, hstep⟩ | ⟨e, es, m, hup, hstep⟩ := step_of_upcoming s
    · obtain ⟨hi, hfault⟩ := stepEvent_enters_wait hs (hstep ▸ h) ht
      exact ⟨hi, hfault, .inl hup⟩
    · rw [hstep] at h
      obtain ⟨rom, -, rfl⟩ | ⟨rnd, u, rfl, hu, rfl⟩ | ⟨a, b, rfl⟩ | ⟨new, -, rfl⟩ := issue_next_cases h
      · exact absurd ht Bool.false_ne_true
      · obtain ⟨hi, hfault⟩ :=
          stepEvent_enters_wait (s := ((s.setAgenda es).setEnv m).setRndPort (some rnd)) hs hu ht
        exact ⟨hi, hfault, .inr ⟨rnd, hup⟩⟩
      · exact absurd (hs.symm.trans ht) Bool.false_ne_true
      · rw [keySampleEvent_of_no_wait (s := (s.setAgenda es).setEnv m) hs] at ht
        exact absurd (hs.symm.trans ht) Bool.false_ne_true
  · obtain ⟨-, -, hstep⟩ | ⟨e, es, m, hup, hstep⟩ := step_of_upcoming s
    · exact absurd (ht.symm.trans (stepEvent_keeps_active_wait hs (hstep ▸ h))) Bool.false_ne_true
    · rw [hstep] at h
      obtain ⟨rom, rfl, -⟩ | ⟨rnd, u, -, hu, rfl⟩ | ⟨a, b, rfl⟩ | ⟨new, rfl, rfl⟩ := issue_next_cases h
      · exact .inl ⟨rom, hup⟩
      · have hkept := stepEvent_keeps_active_wait (s := ((s.setAgenda es).setEnv m).setRndPort (some rnd)) hs hu
        exact absurd (ht.symm.trans hkept) Bool.false_ne_true
      · exact absurd (ht.symm.trans hs) Bool.false_ne_true
      · exact .inr ⟨new, hup, keySampleEvent_leaves_wait (s := (s.setAgenda es).setEnv m) hs ht⟩

end Sys2Proof.Machine

/-!
PROOFS. Ticks, key samples and the key wait (60_exceptions.md R112 to R117, 44_timers_keys.md R96).
-/

namespace Sys2Proof.Machine

/-! Ticks. -/

theorem unchangedBut_timers (s : State) (a b : Byte) : UnchangedBut [] [.dt, .st] s ((s.setDt a).setSt b) :=
  (unchangedBut_setDt s a).trans (unchangedBut_setSt _ b)

theorem byte_eq_zero_iff (b : Byte) : b = 0 ↔ b.toNat = 0 := BitVec.toNat_eq

/-- One Tick takes min(1, ST) from ST, and reports as much (60_exceptions.md R114). -/
theorem sndDec_eq_min (s : State) : sndDec s = min 1 s.st.toNat := by
  by_cases h : s.st.toNat = 0
  · rw [sndDec, if_pos ((byte_eq_zero_iff _).2 h)]
    omega
  · rw [sndDec, if_neg (mt (byte_eq_zero_iff _).1 h)]
    omega

/-- Settles O36: a Tick is one write of each timer. -/
theorem tickCountsBothTimersDown : Obligations.TickCountsBothTimersDown := by
  intro s rest hagenda
  refine ⟨tickEvent (s.setAgenda rest), step_of_cons hagenda, countDown_toNat s.dt, countDown_toNat s.st, rfl,
    ((unchangedBut_setAgenda s rest).trans (unchangedBut_timers _ _ _)).mono (by simp) (by simp),
    congrArg Output.soundDecrement ?_⟩
  rw [sndDec_eq_min]
  split_ifs <;> omega

theorem issueAll_cons_of_next {e : Event} {s t : State} (h : issue e s = .next t) (es : List Event) :
    issueAll (e :: es) s = issueAll es t := by
  rw [issueAll, h]

theorem issueAll_ticks (k : Nat) (s : State) : issueAll (List.replicate k .tick) s = .next (tickBatch k s) := by
  induction k generalizing s with
  | zero => rfl
  | succ k ih => exact ih (tickEvent s)

theorem tickBatch_dt (k : Nat) (s : State) : (tickBatch k s).dt.toNat = s.dt.toNat - k := by
  induction k generalizing s with
  | zero => rfl
  | succ k ih =>
    rw [tickBatch, ih, tickEvent_eq, State.setSt_dt, State.setDt_dt, countDown_toNat]
    omega

theorem tickBatch_st (k : Nat) (s : State) : (tickBatch k s).st.toNat = s.st.toNat - k := by
  induction k generalizing s with
  | zero => rfl
  | succ k ih =>
    rw [tickBatch, ih, tickEvent_eq, State.setSt_st, countDown_toNat]
    omega

theorem sndDecBatch_eq_min (k : Nat) (s : State) : sndDecBatch k s = min k s.st.toNat := by
  induction k generalizing s with
  | zero => simp [sndDecBatch]
  | succ k ih =>
    rw [sndDecBatch, ih, sndDec_eq_min, tickEvent_eq, State.setSt_st, countDown_toNat]
    omega

/-- Settles O37: by induction on k for each of the batch, its timers and its decrements. -/
theorem batchedTickIsThatManyTicks : Obligations.BatchedTickIsThatManyTicks := by
  intro s k
  obtain ⟨a, b, hframe⟩ := tickBatch_frame k s
  refine ⟨(issueAll_ticks k s).symm, congrArg Output.soundDecrement (sndDecBatch_eq_min k s), tickBatch k s, rfl,
    ?_, ?_, hframe ▸ unchangedBut_timers s a b⟩
  · rw [tickBatch_dt]
    omega
  · rw [tickBatch_st]
    omega

/-! The key wait. -/

/-- An event that cannot end a wait changes the timers at most while the wait is on. -/
theorem issue_of_waiting {e : Event} {s : State} (hs : s.wait.active = true) (he : e.keepsWait = true) :
    ∃ a b, issue e s = .next ((s.setDt a).setSt b) := by
  cases e with
  | step rnd => exact ⟨s.dt, s.st, stepWith_of_held (held_of_latch (.inr hs)) rnd⟩
  | tick => exact ⟨_, _, rfl⟩
  | tickBatch k =>
    obtain ⟨a, b, h⟩ := tickBatch_frame k s
    exact ⟨a, b, congrArg Host.Outcome.next h⟩
  | readout => exact ⟨s.dt, s.st, rfl⟩
  | reset rom => cases he
  | keySample new => cases he

theorem issueAll_of_waiting (es : List Event) (s : State) (hs : s.wait.active = true)
    (hes : ∀ e ∈ es, e.keepsWait = true) : ∃ a b, issueAll es s = .next ((s.setDt a).setSt b) := by
  induction es generalizing s with
  | nil => exact ⟨s.dt, s.st, rfl⟩
  | cons e es ih =>
    obtain ⟨a, b, hissue⟩ := issue_of_waiting hs (hes e List.mem_cons_self)
    obtain ⟨a', b', hrest⟩ := ih ((s.setDt a).setSt b) hs fun e' he' => hes e' (List.mem_cons_of_mem e he')
    exact ⟨a', b', (issueAll_cons_of_next hissue es).trans hrest⟩

/-- Settles O38: Fx0A is one write of the latch, and every event that keeps the wait writes timers only. -/
theorem keyWaitHoldsTheMachine : Obligations.KeyWaitHoldsTheMachine := by
  refine ⟨fun s x => ⟨_, exec_ldVxK s x, rfl, rfl, unchangedBut_setWait s _⟩, fun es s hs hes => ?_⟩
  obtain ⟨a, b, h⟩ := issueAll_of_waiting es s hs hes
  exact ⟨_, h, unchangedBut_timers s a b⟩

/-! Key samples. -/

theorem keySampleWith_getKey (tiebreak : List KeyCode → Option KeyCode) (new : Vector Bool 16) (s : State)
    (k : KeyCode) : (keySampleWith tiebreak new s).getKey k = new[k] := by
  obtain ⟨ht, -⟩ | ⟨j, -, -, ht⟩ := keySampleWith_cases tiebreak new s
  · rw [ht]
    rfl
  · rw [ht]
    rfl

theorem keySampleWith_agenda (tiebreak : List KeyCode → Option KeyCode) (new : Vector Bool 16) (s : State) :
    (keySampleWith tiebreak new s).agenda = s.agenda := by
  obtain ⟨ht, -⟩ | ⟨j, -, -, ht⟩ := keySampleWith_cases tiebreak new s
  · rw [ht]
    rfl
  · rw [ht]
    rfl

/-- With a wait, the key that the tie-break answers is delivered (60_exceptions.md R115, R117). -/
theorem keySampleWith_delivers {tiebreak : List KeyCode → Option KeyCode} {new : Vector Bool 16} {s : State}
    {k : KeyCode} (hs : s.wait.active = true) (hk : tiebreak (risingEdges s.keys new) = some k) :
    keySampleWith tiebreak new s =
      ((s.setKeys new).setV s.wait.target (BitVec.ofNat 8 k.val)).setWait { s.wait with active := false } := by
  obtain ⟨-, hnowait | hnone⟩ | ⟨j, -, hj, ht⟩ := keySampleWith_cases tiebreak new s
  · exact absurd (hnowait.symm.trans hs) Bool.false_ne_true
  · cases hnone.symm.trans hk
  · cases hj.symm.trans hk
    exact ht

theorem risingEdges_eq_nil {old new : Vector Bool 16} (h : ∀ k : KeyCode, old[k] = true ∨ new[k] = false) :
    risingEdges old new = [] := by
  refine List.eq_nil_iff_forall_not_mem.2 fun k hk => ?_
  obtain ⟨hup, hdown⟩ := (mem_risingEdges old new k).1 hk
  obtain hold | hnew := h k
  · exact Bool.false_ne_true (hup.symm.trans hold)
  · exact Bool.false_ne_true (hnew.symm.trans hdown)

theorem delivered_toNat (s : State) (new : Vector Bool 16) (w : Wait) (x : Reg) (k : KeyCode) :
    ((((s.setKeys new).setV x (BitVec.ofNat 8 k.val)).setWait w).getV x).toNat = k.val := by
  rw [State.setWait_getV, State.getV_setV_same, BitVec.toNat_ofNat, Nat.mod_eq_of_lt (by omega)]

theorem unchangedBut_delivered (s : State) (new : Vector Bool 16) (w : Wait) (x : Reg) (b : Byte) :
    UnchangedBut [x] [.keys, .wait] s (((s.setKeys new).setV x b).setWait w) :=
  ((unchangedBut_setKeys s new).trans (unchangedBut_setV _ x b)).trans (unchangedBut_setWait _ w)

/-- Settles O39: without an edge the tie-break answers none, with one it answers the largest. -/
theorem keySampleEndsAWaitOnARisingEdge : Obligations.KeySampleEndsAWaitOnARisingEdge := by
  intro s new rest hagenda
  refine ⟨keySampleEvent new (s.setAgenda rest), step_of_cons hagenda, keySampleWith_agenda ..,
    keySampleWith_getKey _ new _, fun hquiet => ?_, fun hwait k hup hdown hmax => ?_⟩
  · have hkeys : keySampleEvent new (s.setAgenda rest) = (s.setAgenda rest).setKeys new := by
      obtain hnowait | hnoedge := hquiet
      · exact keySampleEvent_of_no_wait (s := s.setAgenda rest) hnowait new
      · exact keySampleEvent_of_no_edge (s := s.setAgenda rest) (risingEdges_eq_nil hnoedge)
    rw [hkeys]
    exact ((unchangedBut_setAgenda s rest).trans (unchangedBut_setKeys _ new)).mono (by simp) (by simp)
  · have hedge : keyTiebreak (risingEdges s.keys new) = some k := by
      refine keyTiebreak_eq_some _ k ((mem_risingEdges ..).2 ⟨hup, hdown⟩) fun j hj => ?_
      obtain ⟨hjup, hjdown⟩ := (mem_risingEdges s.keys new j).1 hj
      exact hmax j hjup hjdown
    have ht : keySampleEvent new (s.setAgenda rest) = _ := keySampleWith_delivers (s := s.setAgenda rest) hwait hedge
    rw [ht]
    exact ⟨delivered_toNat (s.setAgenda rest) new _ _ k, rfl,
      ((unchangedBut_setAgenda s rest).trans (unchangedBut_delivered ..)).mono (by simp) (by simp)⟩

/-- Settles O40: the tie-break answers a member of the edges, and that key is delivered. -/
theorem anyTiebreakDeliversAFallenKey : Obligations.AnyTiebreakDeliversAFallenKey := by
  rintro tiebreak s new htiebreak hwait ⟨j, hup, hdown⟩
  obtain ⟨k, hk, hmem⟩ := htiebreak (risingEdges s.keys new) (List.ne_nil_of_mem ((mem_risingEdges ..).2 ⟨hup, hdown⟩))
  obtain ⟨hkup, hkdown⟩ := (mem_risingEdges s.keys new k).1 hmem
  refine ⟨k, hkup, hkdown, ?_⟩
  rw [keySampleWith_delivers hwait hk]
  exact ⟨delivered_toNat s new _ _ k, rfl⟩

end Sys2Proof.Machine

/-!
PROOFS. Arithmetic with flags, shifts, the random byte and the addition to I (41_alu.md R73 to R78, 42_index_memory.md
R81); the remaining control transfers and the key skips (40_control.md, 44_timers_keys.md R93, R94).
-/

namespace Sys2Proof.Machine

/-! A flag and a result. -/

theorem flagByte_decide (p : Prop) [Decidable p] : flagByte (decide p) = if p then 1 else 0 := by
  by_cases h : p <;> simp [flagByte, h]

/-- What an instruction does that writes VF and then V[x]: with x = F the result stays (41_alu.md R66). -/
theorem exec_flag_result_spec {i : Instr} {s : State} {x : Reg} {flag result : Byte}
    (h : exec i s = .next ((s.setV regVF flag).setV x result)) :
    ∃ t, exec i s = .next t ∧ t.getV x = result ∧ (x ≠ regVF → t.getV regVF = flag) ∧
      UnchangedBut [x, regVF] [] s t := by
  refine ⟨_, h, State.getV_setV_same _ x result, fun hx => ?_, unchangedBut_flag_result s x flag result⟩
  rw [State.getV_setV_of_ne _ _ (Ne.symm hx), State.getV_setV_same]

/-- Settles O18: the flag is the carry, the result a sum of bytes. -/
theorem addReportsTheCarry : Obligations.AddReportsTheCarry := by
  intro s x y
  obtain ⟨t, hexec, hresult, hflag, hframe⟩ := exec_flag_result_spec (exec_addVxVy s x y)
  refine ⟨decode_encXYN_addVxVy x y, t, hexec, hresult ▸ BitVec.toNat_add _ _, fun hx => ?_, hframe⟩
  rw [hflag hx, carryFlag, flagByte_decide]

theorem toNat_sub_byte (a b : Byte) : ((a - b).toNat : Int) = ((a.toNat : Int) - (b.toNat : Int)) % 256 := by
  rw [BitVec.toNat_sub]
  omega

/-- The two subtractions differ in which register is the minuend. -/
theorem exec_difference_spec {i : Instr} {s : State} {x : Reg} {a b : Byte}
    (h : exec i s = .next ((s.setV regVF (notBorrowFlag a b)).setV x (a - b))) :
    ∃ t, exec i s = .next t ∧ ((t.getV x).toNat : Int) = ((a.toNat : Int) - (b.toNat : Int)) % 256 ∧
      (x ≠ regVF → t.getV regVF = if a.toNat ≥ b.toNat then 1 else 0) ∧ UnchangedBut [x, regVF] [] s t := by
  obtain ⟨t, hexec, hresult, hflag, hframe⟩ := exec_flag_result_spec h
  refine ⟨t, hexec, hresult ▸ toNat_sub_byte a b, fun hx => ?_, hframe⟩
  rw [hflag hx, notBorrowFlag, flagByte_decide]

/-- Settles O19: both are one difference with its flag. -/
theorem subtractReportsNotBorrow : Obligations.SubtractReportsNotBorrow := fun s x y =>
  ⟨decode_encXYN_subVxVy x y, decode_encXYN_subnVxVy x y, exec_difference_spec (exec_subVxVy s x y),
    exec_difference_spec (exec_subnVxVy s x y)⟩

/-! Shifts. -/

theorem shrFlag_toNat (a : Byte) : (shrFlag a).toNat = a.toNat % 2 :=
  (BitVec.toNat_and a 1).trans (Nat.and_one_is_mod a.toNat)

theorem shiftRight_one_toNat (a : Byte) : (a >>> 1).toNat = a.toNat / 2 := by
  rw [BitVec.toNat_ushiftRight, Nat.shiftRight_eq_div_pow, Nat.pow_one]

/-- With x = F the shift acts on the flag, which is 0 or 1 (decision D5). -/
theorem shrFlag_shiftRight (a : Byte) : shrFlag a >>> 1 = 0 := by
  refine BitVec.eq_of_toNat_eq ?_
  rw [shiftRight_one_toNat, shrFlag_toNat]
  exact Nat.div_eq_of_lt (Nat.mod_lt _ (by decide))

/-- Settles O20: with x other than F the value shifted is V[x], with x = F it is the flag. -/
theorem shiftRightReportsTheLostBit : Obligations.ShiftRightReportsTheLostBit := by
  intro s x y
  obtain ⟨t, hexec, hresult, hflag, hframe⟩ := exec_flag_result_spec (exec_shrVx s x y)
  refine ⟨decode_encXYN_shrVx x y, t, hexec, fun hx => ⟨?_, ?_⟩, fun hx => ?_, hframe⟩
  · rw [hresult, if_neg hx, shiftRight_one_toNat]
  · rw [hflag hx, shrFlag_toNat]
  · rw [← hx, hresult, if_pos hx, shrFlag_shiftRight]

theorem shlFlag_eq (raw : Bool) (a : Byte) :
    shlFlag raw a = if a.toNat < 128 then 0 else if raw = true then 0x80 else 1 := by
  revert raw a
  decide

theorem shiftLeft_one_toNat (a : Byte) : (a <<< 1).toNat = 2 * a.toNat % 256 := by
  rw [BitVec.toNat_shiftLeft, Nat.shiftLeft_eq]
  omega

/-- With x = F the shift acts on the flag (decision D5). -/
theorem shlFlag_shiftLeft (raw : Bool) (a : Byte) :
    shlFlag raw a <<< 1 = if raw = true then 0 else if a.toNat < 128 then 0 else 2 := by
  rw [shlFlag_eq]
  split_ifs <;> rfl

/-- Settles O21: as the right shift, for either form of the flag. -/
theorem shiftLeftReportsBitSeven : Obligations.ShiftLeftReportsBitSeven := by
  refine fun s x y => ⟨exec_shlVx s x y, fun raw => ?_⟩
  rw [shiftLeft_eq]
  refine ⟨fun hx => ⟨?_, ?_⟩, fun hx => ?_, unchangedBut_flag_result s x _ _⟩
  · rw [State.getV_setV_same, if_neg hx, shiftLeft_one_toNat]
  · rw [State.getV_setV_of_ne _ _ (Ne.symm hx), State.getV_setV_same, shlFlag_eq]
  · rw [if_pos hx, hx, State.getV_setV_same, shlFlag_shiftLeft]

/-! The random byte. -/

/-- Settles O22: one count of the samples and one write of V[x] with the byte that the port or the free value gives. -/
theorem randomByteIsMasked : Obligations.RandomByteIsMasked := by
  refine fun s x kk => ⟨_, exec_rnd s x kk, fun b hb => ?_, fun hnone => ?_, rfl,
    (unchangedBut_setDraws s _).trans (unchangedBut_setV _ x _)⟩
  · rw [State.getV_setV_same, State.rndByte, hb, Option.getD_some]
  · rw [State.getV_setV_same, State.rndByte, hnone, Option.getD_none]

/-! Fx1E. -/

/-- Settles O43: the sum of 12 bits and a byte fits in 16, and the flag says whether it fits in 12. -/
theorem addToIndexReportsOverflow : Obligations.AddToIndexReportsOverflow := by
  refine fun s x => ⟨decode_encXKk_addIVx x, _, exec_addIVx s x, ?_, ?_,
    (unchangedBut_setV s regVF _).trans (unchangedBut_setI _ _)⟩
  · have := maskAddr_lt s.i.toNat
    rw [State.setI_i, BitVec.toNat_ofNat, Nat.mod_eq_of_lt (by omega), maskAddr]
  · rw [State.setI_getV, State.getV_setV_same, indexOverflowFlag, flagByte_decide, maskAddr]

/-! Jumps, calls and returns. -/

/-- The sum of a 12-bit address and a byte fits in 16 bits (40_control.md R63). -/
theorem indexedTarget_toNat (nnn : Addr12) (s : State) :
    (indexedTarget nnn s).toNat = nnn.toNat + (s.getV 0).toNat := by
  have hbyte : (Byte.toWord (s.getV 0)).toNat = (s.getV 0).toNat := BitVec.toNat_setWidth_of_le (by decide)
  have haddr : (Addr12.toWord nnn).toNat = nnn.toNat := immAddress_toNat nnn
  rw [indexedTarget, BitVec.toNat_add, hbyte, haddr]
  omega

/-- Settles O24: each of the two jumps is one write of PC. -/
theorem plainAndIndexedJumpsSetPc : Obligations.PlainAndIndexedJumpsSetPc := by
  refine fun s nnn => ⟨fun hE0 hEE => decode_encNnn_sys ?_, decode_encNnn_jpV0 nnn,
    ⟨_, exec_sys s nnn, immAddress_toNat nnn, unchangedBut_setPc s _⟩,
    ⟨_, exec_jpV0 s nnn, indexedTarget_toNat nnn s, unchangedBut_setPc s _⟩⟩
  rw [sysReserved, beq_false_of_ne hE0, beq_false_of_ne hEE, Bool.or_false]

/-- A stack with room has a next slot. -/
theorem exists_pushSlot {p : Option StackIndex} (h : spValue p < 15) : ∃ j, pushSlot p = some j :=
  Option.ne_none_iff_exists'.1 fun hnone => absurd ((pushSlot_eq_none p).1 hnone) (Int.ne_of_lt h)

/-- Settles O26: a call with room is one push and one jump; the other entries keep their words. -/
theorem callPushesOrOverflows : Obligations.CallPushesOrOverflows := by
  refine fun s nnn => ⟨fun hroom => ?_, fun hfull =>
    ⟨_, exec_call_full s nnn ((pushSlot_eq_none _).2 hfull), rfl, unchangedBut_setFault s _⟩⟩
  obtain ⟨j, hj⟩ := exists_pushSlot hroom
  refine ⟨_, j, exec_call_room s nnn hj, rfl, pushSlot_eq_some hj, ?_, fun k hk => ?_, immAddress_toNat nnn,
    (((unchangedBut_setSp s _).trans (unchangedBut_setStack _ j _)).trans (unchangedBut_setPc _ _)).mono (by simp)
      (by simp)⟩
  · rw [State.setPc_getStack, State.getStack_setStack, if_pos rfl]
  · rw [State.setPc_getStack, State.getStack_setStack, if_neg hk, State.setSp_getStack]

/-- Settles O27: a return is one write of PC and one of SP. -/
theorem returnPopsOrUnderflows : Obligations.ReturnPopsOrUnderflows := fun s =>
  ⟨fun j hj => ⟨_, exec_ret_top s hj, rfl, spValue_popSlot j, (unchangedBut_setPc s _).trans (unchangedBut_setSp _ _)⟩,
    fun hempty =>
      ⟨_, exec_ret_empty s ((spValue_eq_neg_one_iff _).1 hempty), rfl, unchangedBut_setFault s _⟩⟩

/-- Settles O28: the popped slot is the pushed one, which holds the caller's PC. -/
theorem returnUndoesCall : Obligations.ReturnUndoesCall := by
  intro s t u nnn hroom hcall hsp hstack
  obtain ⟨j, hj⟩ := exists_pushSlot hroom
  cases (exec_call_room s nnn hj).symm.trans hcall
  refine ⟨_, exec_ret_top u hsp, ?_, popSlot_pushSlot hj⟩
  rw [State.setSp_pc, State.setPc_pc, hstack, State.setPc_getStack, State.getStack_setStack, if_pos rfl]

/-! Skips. -/

/-- Settles O30: both are skips, on V[x] = V[y] and on V[x] ≠ V[y]. -/
theorem registerSkipsTestTheirCondition : Obligations.RegisterSkipsTestTheirCondition := fun s x y n =>
  ⟨decode_encXYN_seVxVy x y n, decode_encXYN_sneVxVy x y n, exec_skip_spec (exec_seVxVy s x y n),
    exec_skip_spec (exec_sneVxVy s x y n)⟩

theorem keyIndex_of_toNat_eq {b : Byte} {k : KeyCode} (h : b.toNat = k.val) : keyIndex b = some k := by
  rw [keyIndex_of_lt (h ▸ k.isLt)]
  exact congrArg some (Fin.ext h)

/-- With a key code a key skip is a skip on its level. -/
theorem keySkip_of_key {i : Instr} {x : Reg} {level : Bool} (hi : SkipsOnKey i x level) {s : State} {k : KeyCode}
    (hk : (s.getV x).toNat = k.val) :
    ∃ t, exec i s = .next t ∧ UnchangedBut [] [.pc] s t ∧
      t.pc.toNat = if s.getKey k = level then (s.pc.toNat + 2) % 65536 else s.pc.toNat :=
  exec_skip_spec ((hi s).2 k (keyIndex_of_toNat_eq hk))

/-- Above 15 a key skip is one write of the latch. -/
theorem keySkip_of_large {i : Instr} {x : Reg} {level : Bool} (hi : SkipsOnKey i x level) {s : State}
    (hlarge : 15 < (s.getV x).toNat) :
    ∃ t, exec i s = .next t ∧ t.fault = .keyIndexOutOfRange ∧ UnchangedBut [] [.fault] s t :=
  ⟨_, (hi s).1 ((keyIndex_eq_none_iff _).2 hlarge), rfl, unchangedBut_setFault s _⟩

/-- Settles O31: the two instructions are one skip on a key, for the levels down and up. -/
theorem keySkipsTestTheLevelOrFault : Obligations.KeySkipsTestTheLevelOrFault := fun _ x =>
  ⟨fun _ hk => ⟨keySkip_of_key (skp_skipsOnKey x) hk, keySkip_of_key (sknp_skipsOnKey x) hk⟩,
    fun hlarge => ⟨keySkip_of_large (skp_skipsOnKey x) hlarge, keySkip_of_large (sknp_skipsOnKey x) hlarge⟩⟩

end Sys2Proof.Machine

/-!
PROOFS. Memory as data: the canonical form is determined by its bytes (log 3), and what a program load leaves at each
address (70_reset_and_hazards.md R125, 10_state.md R26). The register group: Fx55 and Fx65 (42_index_memory.md R84,
R85), and the word that a store leaves behind itself (20_memory.md R40).
-/

namespace Sys2Proof.Machine

/-! The canonical form. -/

theorem Memory.wf_cons {c : Host.Cell} {m : Memory} (h : Memory.wf (c :: m)) :
    (∀ d ∈ m, c.1 < d.1) ∧ Memory.wf m :=
  ⟨(List.pairwise_cons.1 h.1).1, (List.pairwise_cons.1 h.1).2, fun d hd => h.2 d (List.mem_cons_of_mem c hd)⟩

theorem Memory.read_of_not_listed {m : Memory} {a : Nat} (h : ∀ c ∈ m, c.1 ≠ a) :
    Memory.read m a = Memory.unlisted a := by
  induction m with
  | nil => rfl
  | cons c m ih =>
    rw [Memory.read, if_neg (h c List.mem_cons_self)]
    exact ih fun d hd => h d (List.mem_cons_of_mem c hd)

theorem Memory.read_of_mem {m : Memory} (h : m.wf) {c : Host.Cell} (hc : c ∈ m) : Memory.read m c.1 = c.2 := by
  induction m with
  | nil => cases hc
  | cons d m ih =>
    obtain ⟨hlt, hm⟩ := Memory.wf_cons h
    obtain rfl | hc := List.mem_cons.1 hc
    · exact if_pos rfl
    · rw [Memory.read, if_neg (Nat.ne_of_lt (hlt c hc))]
      exact ih hm hc

/-- A cell of a canonical memory is listed exactly when it is read and is not what an unlisted address reads as. -/
theorem Memory.mem_iff_read {m : Memory} (h : m.wf) (c : Host.Cell) :
    c ∈ m ↔ c.1 < 4096 ∧ c.2 ≠ Memory.unlisted c.1 ∧ m.readByte c.1 = c.2 := by
  have hmask : c.1 < 4096 → m.readByte c.1 = Memory.read m c.1 := fun ha =>
    congrArg (Memory.read m) (Nat.mod_eq_of_lt ha)
  constructor
  · intro hc
    obtain ⟨ha, hb⟩ := h.2 c hc
    exact ⟨ha, hb, (hmask ha).trans (Memory.read_of_mem h hc)⟩
  · rintro ⟨ha, hb, hread⟩
    rw [hmask ha] at hread
    have hlisted : ∃ d ∈ m, d.1 = c.1 := by
      by_contra hnone
      exact hb (hread.symm.trans (Memory.read_of_not_listed fun d hd he => hnone ⟨d, hd, he⟩))
    obtain ⟨d, hd, he⟩ := hlisted
    have hbyte : d.2 = c.2 := (Memory.read_of_mem h hd).symm.trans (he ▸ hread)
    exact Prod.ext he hbyte ▸ hd

/-- Settles O15: a canonical memory lists, in the order of their addresses, exactly the cells that its reads show. -/
theorem canonicalMemoryIsDeterminedByItsBytes : Obligations.CanonicalMemoryIsDeterminedByItsBytes := by
  intro m m' hm hm' hread
  have hmem : ∀ c, c ∈ m ↔ c ∈ m' := fun c => by
    rw [Memory.mem_iff_read hm, Memory.mem_iff_read hm']
    exact and_congr_right fun ha => by rw [hread c.1 ha]
  have hanti : Std.Antisymm fun c d : Host.Cell => c.1 < d.1 := ⟨fun _ _ h h' => absurd h (Nat.lt_asymm h')⟩
  have hirrefl : Std.Irrefl fun c d : Host.Cell => c.1 < d.1 := ⟨fun c => Nat.lt_irrefl c.1⟩
  exact List.Pairwise.eq_of_mem_iff hm.1 hm'.1 hmem

/-! The state after Reset. -/

theorem font_length : font.length = 80 := by decide

theorem Memory.unlisted_of_ge {a : Nat} (h : 80 ≤ a) : Memory.unlisted a = 0 :=
  List.getD_eq_default _ _ (font_length ▸ h)

theorem reset_getV (r : Reg) : State.reset.getV r = 0 := Vector.getElem_replicate _

theorem reset_getStack (j : StackIndex) : State.reset.getStack j = 0 := Vector.getElem_replicate _

theorem reset_getKey (k : KeyCode) : State.reset.getKey k = false := Vector.getElem_replicate _

theorem reset_getPixel (row : Fin 32) (col : Fin 64) : State.reset.getPixel row col = false :=
  Display.pixel_blank row col

theorem reset_memRead {a : Nat} (h : a < 4096) : State.reset.memRead a = if a < 80 then font.getD a 0 else 0 := by
  have hread : State.reset.memRead a = Memory.unlisted a := congrArg Memory.unlisted (Nat.mod_eq_of_lt h)
  split_ifs with hfont
  · exact hread
  · exact hread.trans (Memory.unlisted_of_ge (Nat.le_of_not_lt hfont))

/-- Settles O10: a fixed state, field by field. -/
theorem resetStateHoldsTheSpecifiedValues : Obligations.ResetStateHoldsTheSpecifiedValues :=
  ⟨reset_getV, rfl, rfl, rfl, reset_getStack, rfl, rfl, reset_getKey, rfl, rfl, rfl, reset_getPixel,
    fun _ => reset_memRead⟩

/-- The rom lies over the font, and the font over what unlisted addresses read as. -/
theorem readByte_bootMemory {glyphs rom : List Byte} (hglyphs : glyphs.length = 80) (hrom : rom.length ≤ 3584) {a : Nat}
    (ha : a < 4096) :
    (bootMemory glyphs rom).readByte a =
      if 0x200 ≤ a ∧ a < 0x200 + rom.length then rom.getD (a - 0x200) 0
      else if a < 80 then glyphs.getD a 0 else 0 := by
  unfold bootMemory Config.programOrigin
  split_ifs with hinrom hinfont
  · have hk : a - 0x200 < rom.length := by omega
    rw [Memory.readByte_storeBytes_inside rom _ _ a (a - 0x200) (by omega) hk (by unfold maskAddr; omega),
      List.getD_eq_getElem _ _ hk]
  · rw [Memory.readByte_storeBytes_outside _ _ _ _ fun k hk => by unfold maskAddr; omega,
      Memory.readByte_storeBytes_inside glyphs _ _ a a (by omega) (by omega) (by rw [Nat.zero_add]),
      List.getD_eq_getElem _ _ (by omega)]
  · rw [Memory.readByte_storeBytes_outside _ _ _ _ fun k hk => by unfold maskAddr; omega,
      Memory.readByte_storeBytes_outside _ _ _ _ fun k hk => by unfold maskAddr; omega]
    exact Memory.unlisted_of_ge (by unfold maskAddr; omega)

/-- Settles O11: but for the memory and the environment's inputs the booted state is the reset state. -/
theorem resetEventBuildsTheInitialState : Obligations.ResetEventBuildsTheInitialState :=
  ⟨fun s _ hrom => resetEvent_of_fits hrom s, fun _ _ _ hglyphs hrom =>
    ⟨reset_getV, rfl, rfl, rfl, reset_getStack, rfl, rfl, reset_getKey, rfl, rfl, reset_getPixel,
      fun _ => readByte_bootMemory hglyphs hrom⟩⟩

/-! The register group. -/

theorem State.memRead_congr (s : State) {a b : Nat} (h : maskAddr a = maskAddr b) : s.memRead a = s.memRead b :=
  congrArg (Memory.read s.mem) h

theorem operandByte_eq_memRead (s : State) (k : Nat) : s.operandByte k = s.memRead (effAddr s.i k) :=
  (s.memRead_mask _).symm

/-- I advances by x + 1 modulo 65536 (decision D3). -/
theorem advanced_toNat (w : Word) (x : Reg) :
    (w + BitVec.ofNat 16 (x.val + 1)).toNat = (w.toNat + x.val + 1) % 65536 := by
  rw [BitVec.toNat_add, BitVec.toNat_ofNat]
  omega

theorem memRead_stored_group (s : State) {x r : Reg} (h : r ≤ x) :
    (s.memStore s.i.toNat (s.groupValues x)).memRead (effAddr s.i r.val) = s.getV r := by
  have hlen := groupValues_length s x
  rw [s.memRead_memStore_effAddr (by omega) (by rw [hlen]; exact Nat.lt_succ_of_le h), groupValues_get s x r h]

theorem memRead_outside_group (s : State) {x : Reg} {a : Nat} (h : ∀ r : Reg, r ≤ x → a % 4096 ≠ effAddr s.i r.val) :
    (s.memStore s.i.toNat (s.groupValues x)).memRead a = s.memRead a := by
  refine s.memRead_memStore_of_ne_effAddr _ fun k hk => ?_
  rw [groupValues_length] at hk
  exact h ⟨k, by omega⟩ (Nat.le_of_lt_succ hk)

/-- Settles O45: Fx55 is one run of x + 1 stores at I, whose r-th byte is V[r], and one write of I. -/
theorem storeGroupWritesTheBlockAndAdvancesIndex : Obligations.StoreGroupWritesTheBlockAndAdvancesIndex := fun s x =>
  ⟨decode_encXKk_ldMemVx x, _, exec_ldMemVx s x, fun _ hr => memRead_stored_group s hr,
    fun _ ha => memRead_outside_group s ha, advanced_toNat s.i x,
    (unchangedBut_memStore s _ _).trans (unchangedBut_setI _ _)⟩

theorem getV_loaded_group (s : State) (x r : Reg) :
    (loadGroup s (regsUpTo x) s).getV r = if r ≤ x then s.memRead (effAddr s.i r.val) else s.getV r := by
  simp only [getV_loadGroup, mem_regsUpTo, operandByte_eq_memRead]

/-- Settles O46: Fx65 writes exactly the listed registers, each with its operand byte, and I. -/
theorem loadGroupReadsTheBlockAndAdvancesIndex : Obligations.LoadGroupReadsTheBlockAndAdvancesIndex := fun s x =>
  ⟨decode_encXKk_ldVxMem x, _, exec_ldVxMem s x, fun r hr => (getV_loaded_group s x r).trans (if_pos hr),
    fun r hr => (getV_loaded_group s x r).trans (if_neg (not_le_of_gt hr)), advanced_toNat s.i x,
    everyInstructionKeepsItsFrame _ _ _ (exec_ldVxMem s x)⟩

/-- Settles O47: the load reads at each EA(r) what the store left there. -/
theorem storeThenLoadReproducesTheRegisters : Obligations.StoreThenLoadReproducesTheRegisters := by
  intro s t x w hstore
  cases (exec_ldMemVx s x).symm.trans hstore
  refine ⟨_, exec_ldVxMem _ x, fun r hr => ?_, rfl, advanced_toNat s.i x⟩
  exact ((getV_loaded_group _ x r).trans (if_pos hr)).trans (memRead_stored_group s hr)

/-- A word stored at I is fetched where PC is I modulo 4096. -/
theorem fetchWord_of_stored_group (s : State) {x : Reg} (hx : 1 ≤ x.val) (h : s.i.toNat % 4096 = s.pc.toNat % 4096) :
    (s.memStore s.i.toNat (s.groupValues x)).fetchWord = s.getV 0 ++ s.getV 1 := by
  have hmask : ∀ k, maskAddr (s.pc.toNat + k) = maskAddr (effAddr s.i k) := fun k => by
    unfold effAddr maskAddr
    omega
  have hbyte : ∀ r : Reg, r ≤ x →
      (s.memStore s.i.toNat (s.groupValues x)).memRead (s.pc.toNat + r.val) = s.getV r := fun r hr =>
    (State.memRead_congr _ (hmask r.val)).trans (memRead_stored_group s hr)
  exact congrArg₂ wordOfBytes (hbyte 0 (Nat.zero_le _)) (hbyte 1 hx)

theorem step_of_fetched {t : State} {op w : Word} (hrun : t.running) (hop : t.fetchWord = op) (hpc : t.pc + 2 = w) :
    step t = exec (decode op) { t with pc := w } := by
  rw [step_of_running hrun, hop, hpc]
  rfl

/-- Settles O48: the two bytes at the next PC are the first two of the block. -/
theorem storedWordIsExecutedNext : Obligations.StoredWordIsExecutedNext := by
  intro s x hrun hi hx hnext
  have hpc : s.i.toNat % 4096 = (s.pc + 2).toNat % 4096 := by
    have h2 : (2 : Word).toNat = 2 := rfl
    rw [BitVec.toNat_add, h2]
    omega
  have hfetch := fetchWord_of_stored_group (s.setPc (s.pc + 2)) hx hpc
  have hstep := (step_of_running hrun).trans (hi ▸ exec_ldMemVx (s.setPc (s.pc + 2)) x)
  refine ⟨_, hstep, step_of_fetched ?_ hfetch (BitVec.add_assoc s.pc 2 2)⟩
  exact hrun

end Sys2Proof.Machine

/-!
PROOFS. What no instruction and no event can observe: bits 15..12 of I, ST, the stack entries above SP (10_state.md R14,
R17, R19), and the environment's inputs (log 1). One argument over the events serves all of them: it is made for any
relation between states that agree on the visible pieces and that the few operations on the other pieces keep.
-/

namespace Sys2Proof.Machine

/-! The visible pieces. -/

/-- The pieces of state that two related states have in common: all but I, ST, the stack entries and the agenda and
environment. -/
structure Visible where
  v : Vector Byte 16
  pc : Word
  sp : Option StackIndex
  dt : Byte
  keys : Vector Bool 16
  wait : Wait
  fault : FaultLatch
  pix : Display
  mem : Memory
  rndPort : Option Byte
  draws : Nat

def State.visible (s : State) : Visible where
  v := s.v
  pc := s.pc
  sp := s.sp
  dt := s.dt
  keys := s.keys
  wait := s.wait
  fault := s.fault
  pix := s.pix
  mem := s.mem
  rndPort := s.rndPort
  draws := s.draws

/-- Overwrite every visible piece but SP. -/
def State.write (s : State) (o : Visible) : State :=
  { s with
    v := o.v, pc := o.pc, dt := o.dt, keys := o.keys, wait := o.wait, fault := o.fault, pix := o.pix, mem := o.mem,
    rndPort := o.rndPort, draws := o.draws }

/-- A relation between states that agree on the visible pieces and the low 12 bits of I, and that every write of the
block keeps. -/
structure KeptByBlock (rel : State → State → Prop) : Prop where
  visible {s t : State} : rel s t → s.visible = t.visible
  lowI {s t : State} : rel s t → s.i.toNat % 4096 = t.i.toNat % 4096
  write {s t : State} : rel s t → ∀ o, rel (s.write o) (t.write o)
  pop {s t : State} : rel s t → ∀ j, s.sp = some j →
    s.getStack j = t.getStack j ∧ rel (s.setSp (popSlot j)) (t.setSp (popSlot j))
  push {s t : State} : rel s t → ∀ j w, pushSlot s.sp = some j →
    rel ((s.setSp (some j)).setStack j w) ((t.setSp (some j)).setStack j w)
  setI {s t : State} : rel s t → ∀ w, rel (s.setI w) (t.setI w)
  advanceI {s t : State} : rel s t → ∀ w, rel (s.setI (s.i + w)) (t.setI (t.i + w))
  setSt {s t : State} : rel s t → ∀ b, rel (s.setSt b) (t.setSt b)
  countSt {s t : State} : rel s t → rel (s.setSt (countDown s.st)) (t.setSt (countDown t.st))
  boot {s t : State} : rel s t → ∀ rom, rel (s.boot font rom) (t.boot font rom)

/-! Accesses at I see its low 12 bits only (20_memory.md R29). -/

theorem maskAddr_add_congr {a b : Nat} (h : a % 4096 = b % 4096) (k : Nat) : maskAddr (a + k) = maskAddr (b + k) := by
  unfold maskAddr
  omega

theorem Memory.storeBytes_congr (bs : List Byte) (m : Memory) {a b : Nat} (h : a % 4096 = b % 4096) :
    m.storeBytes a bs = m.storeBytes b bs := by
  induction bs generalizing m a b with
  | nil => rfl
  | cons c bs ih =>
    have hwrite : m.writeByte a c = m.writeByte b c := congrArg (m.write · c) h
    rw [Memory.storeBytes, Memory.storeBytes, hwrite]
    exact ih _ (by omega)

theorem spriteBytes_congr {s t : State} (hmem : s.mem = t.mem) (h : s.i.toNat % 4096 = t.i.toNat % 4096) (n : Nat) :
    spriteBytes s n = spriteBytes t n :=
  List.map_congr_left fun r _ => congrArg₂ Memory.read hmem (maskAddr_add_congr h r)

theorem operandByte_congr {s t : State} (hmem : s.mem = t.mem) (h : s.i.toNat % 4096 = t.i.toNat % 4096) (k : Nat) :
    s.operandByte k = t.operandByte k :=
  congrArg₂ Memory.read hmem (maskAddr_add_congr h k)

theorem loadGroup_v_congr {src src' : State} (hsrc : ∀ k, src.operandByte k = src'.operandByte k) (rs : List Reg)
    {t t' : State} (ht : t.v = t'.v) : (loadGroup src rs t).v = (loadGroup src' rs t').v := by
  induction rs generalizing t t' with
  | nil => exact ht
  | cons r rs ih => exact ih (by rw [State.setV_v, State.setV_v, ht, hsrc])

/-! Instructions. -/

section
variable {rel : State → State → Prop} (hrel : KeptByBlock rel)
include hrel

/-- The same change of the visible pieces on both sides. -/
theorem update_related {s t : State} (h : rel s t) (f : Visible → Visible) :
    rel (s.write (f s.visible)) (t.write (f t.visible)) := by
  rw [hrel.visible h]
  exact hrel.write h _

theorem ret_related {s t : State} (h : rel s t) : RelatedResults rel (exec .ret s) (exec .ret t) := by
  have hsp : s.sp = t.sp := congrArg Visible.sp (hrel.visible h)
  cases hs : s.sp with
  | none =>
    rw [exec_ret_empty s hs, exec_ret_empty t (hsp ▸ hs)]
    exact update_related hrel h fun o => { o with fault := .stackUnderflow }
  | some j =>
    obtain ⟨hentry, hpop⟩ := hrel.pop h j hs
    rw [exec_ret_top s hs, exec_ret_top t (hsp ▸ hs), hentry]
    exact update_related hrel hpop fun o => { o with pc := t.getStack j }

theorem call_related {s t : State} (h : rel s t) (nnn : Addr12) :
    RelatedResults rel (exec (.call nnn) s) (exec (.call nnn) t) := by
  have hsp : s.sp = t.sp := congrArg Visible.sp (hrel.visible h)
  have hpc : s.pc = t.pc := congrArg Visible.pc (hrel.visible h)
  cases hs : pushSlot s.sp with
  | none =>
    rw [exec_call_full s nnn hs, exec_call_full t nnn (hsp ▸ hs)]
    exact update_related hrel h fun o => { o with fault := .stackOverflow }
  | some j =>
    rw [exec_call_room s nnn hs, exec_call_room t nnn (hsp ▸ hs), hpc]
    exact update_related hrel (hrel.push h j t.pc hs) fun o => { o with pc := immAddress nnn }

theorem keySkip_related {i : Instr} {x : Reg} {level : Bool} (hi : SkipsOnKey i x level) {s t : State} (h : rel s t) :
    RelatedResults rel (exec i s) (exec i t) := by
  have hx : s.getV x = t.getV x := congrArg (fun o : Visible => o.v[x]) (hrel.visible h)
  cases hs : keyIndex (s.getV x) with
  | none =>
    rw [(hi s).1 hs, (hi t).1 (hx ▸ hs)]
    exact update_related hrel h fun o => { o with fault := .keyIndexOutOfRange }
  | some k =>
    rw [(hi s).2 k hs, (hi t).2 k (hx ▸ hs)]
    exact update_related hrel h fun o => { o with pc := if o.keys[k] = level then o.pc + 2 else o.pc }

/-- An instruction reads the visible pieces and the operand bytes at I. The stack instructions and the key skips are
above; the cases named below decide a skip, write I or ST, or access memory at I; the others only write visible
pieces. -/
theorem exec_related (i : Instr) {s t : State} (h : rel s t) : RelatedResults rel (exec i s) (exec i t) := by
  have hlow := hrel.lowI h
  have hv : s.v = t.v := congrArg Visible.v (hrel.visible h)
  have hgetV : ∀ x, s.getV x = t.getV x := fun x => congrArg (fun o : Visible => o.v[x]) (hrel.visible h)
  have hmem : s.mem = t.mem := congrArg Visible.mem (hrel.visible h)
  cases i
  case ret => exact ret_related hrel h
  case call nnn => exact call_related hrel h nnn
  case skp x => exact keySkip_related hrel (skp_skipsOnKey x) h
  case sknp x => exact keySkip_related hrel (sknp_skipsOnKey x) h
  case seVxKk x kk =>
    rw [exec_seVxKk, exec_seVxKk]
    exact update_related hrel h fun o => { o with pc := if o.v[x] = kk then o.pc + 2 else o.pc }
  case sneVxKk x kk =>
    rw [exec_sneVxKk, exec_sneVxKk]
    exact update_related hrel h fun o => { o with pc := if o.v[x] ≠ kk then o.pc + 2 else o.pc }
  case seVxVy x y n =>
    rw [exec_seVxVy, exec_seVxVy]
    exact update_related hrel h fun o => { o with pc := if o.v[x] = o.v[y] then o.pc + 2 else o.pc }
  case sneVxVy x y n =>
    rw [exec_sneVxVy, exec_sneVxVy]
    exact update_related hrel h fun o => { o with pc := if o.v[x] ≠ o.v[y] then o.pc + 2 else o.pc }
  case ldINnn nnn => exact hrel.setI h _
  case ldFVx x =>
    rw [exec_ldFVx, exec_ldFVx, hgetV]
    exact hrel.setI h _
  case ldStVx x =>
    rw [exec_ldStVx, exec_ldStVx, hgetV]
    exact hrel.setSt h _
  case addIVx x =>
    have hmask : maskAddr s.i.toNat = maskAddr t.i.toNat := hlow
    rw [exec_addIVx, exec_addIVx, hmask, hgetV]
    exact hrel.setI (update_related hrel h fun o => { o with v := o.v.set regVF _ }) _
  case ldBVx x =>
    rw [exec_ldBVx, exec_ldBVx, Memory.storeBytes_congr _ s.mem hlow]
    exact update_related hrel h fun o =>
      { o with mem := o.mem.storeBytes t.i.toNat (decimalDigits o.v[x]) }
  case ldMemVx x =>
    rw [exec_ldMemVx, exec_ldMemVx, Memory.storeBytes_congr _ s.mem hlow]
    exact hrel.advanceI (update_related hrel h fun o =>
      { o with mem := o.mem.storeBytes t.i.toNat ((regsUpTo x).map fun r => o.v[r]) }) _
  case ldVxMem x =>
    rw [exec_ldVxMem, exec_ldVxMem, loadGroup_v_congr (operandByte_congr hmem hlow) _ hv]
    exact hrel.advanceI (update_related hrel h fun o => { o with v := (loadGroup t (regsUpTo x) t).v }) _
  case drw x y n =>
    rw [exec_drw, exec_drw, spriteBytes_congr hmem hlow]
    exact update_related hrel h fun o =>
      let c := drawRows o.v[x] o.v[y] 0 (spriteBytes t n.toNat) { pix := o.pix, hit := false }
      { o with pix := c.pix, v := o.v.set regVF (collisionFlag c.hit) }
  all_goals
    have hvisible := hrel.visible h
    obtain ⟨v, i₁, pc, sp, stack₁, dt, st₁, keys, wait, fault, pix, mem, agenda₁, env₁, rndPort, draws⟩ := s
    obtain ⟨v', i₂, pc', sp', stack₂, dt', st₂, keys', wait', fault', pix', mem', agenda₂, env₂, rndPort', draws'⟩ := t
    obtain ⟨rfl, rfl, rfl, rfl, rfl, rfl, rfl, rfl, rfl, rfl, rfl⟩ := Visible.mk.inj hvisible
    exact hrel.write h ⟨_, _, sp, _, _, _, _, _, _, _, _⟩

/-! Events. -/

theorem stepEvent_related {s t : State} (h : rel s t) : RelatedResults rel (stepEvent s) (stepEvent t) := by
  have hheld : s.held = t.held := congrArg (fun o : Visible => o.fault != .none || o.wait.active) (hrel.visible h)
  have hpc : s.pc = t.pc := congrArg Visible.pc (hrel.visible h)
  have hmem : s.mem = t.mem := congrArg Visible.mem (hrel.visible h)
  have hfetch : s.fetchWord = t.fetchWord := by rw [State.fetchWord, State.memRead, State.memRead, hpc, hmem]; rfl
  cases hs : s.held with
  | true =>
    rw [stepEvent_of_held hs, stepEvent_of_held (hheld ▸ hs)]
    exact h
  | false =>
    rw [stepEvent_of_running hs, stepEvent_of_running (hheld ▸ hs), hfetch]
    exact exec_related hrel _ (update_related hrel h fun o => { o with pc := o.pc + 2 })

theorem stepWith_related {s t : State} (h : rel s t) (rnd : Byte) :
    RelatedResults rel (stepWith rnd s) (stepWith rnd t) := by
  have hport : s.rndPort = t.rndPort := congrArg Visible.rndPort (hrel.visible h)
  have hdriven : rel (s.setRndPort (some rnd)) (t.setRndPort (some rnd)) :=
    update_related hrel h fun o => { o with rndPort := some rnd }
  have hstep := stepEvent_related hrel hdriven
  obtain ⟨u, hu⟩ := stepEvent_completes (s.setRndPort (some rnd))
  obtain ⟨w, hw⟩ := stepEvent_completes (t.setRndPort (some rnd))
  rw [hu, hw] at hstep
  rw [stepWith_of_stepEvent hu, stepWith_of_stepEvent hw, hport]
  exact update_related hrel hstep fun o => { o with rndPort := t.rndPort }

theorem tickEvent_related {s t : State} (h : rel s t) : rel (tickEvent s) (tickEvent t) :=
  hrel.countSt (update_related hrel h fun o => { o with dt := countDown o.dt })

theorem tickBatch_related (k : Nat) {s t : State} (h : rel s t) : rel (tickBatch k s) (tickBatch k t) := by
  induction k generalizing s t with
  | zero => exact h
  | succ k ih => exact ih (tickEvent_related hrel h)

theorem keySampleEvent_related (new : Vector Bool 16) {s t : State} (h : rel s t) :
    rel (keySampleEvent new s) (keySampleEvent new t) := by
  have hkeys : s.keys = t.keys := congrArg Visible.keys (hrel.visible h)
  have hwait : s.wait = t.wait := congrArg Visible.wait (hrel.visible h)
  unfold keySampleEvent keySampleWith
  simp only [hkeys, hwait]
  split
  · split
    · exact update_related hrel h fun o => { o with keys := new }
    · exact update_related hrel h fun o =>
        { o with keys := new, v := o.v.set t.wait.target _, wait := { t.wait with active := false } }
  · exact update_related hrel h fun o => { o with keys := new }

theorem resetEvent_related (rom : List Byte) {s t : State} (h : rel s t) :
    RelatedResults rel (resetEvent rom s) (resetEvent rom t) := by
  obtain hlong | hfits := Nat.lt_or_ge 3584 rom.length
  · rw [resetEvent_of_overlong hlong, resetEvent_of_overlong hlong]
    rfl
  · rw [resetEvent_of_fits hfits, resetEvent_of_fits hfits]
    exact hrel.boot h rom

/-- Every event keeps the relation. -/
theorem issue_related (e : Event) {s t : State} (h : rel s t) : RelatedResults rel (issue e s) (issue e t) := by
  cases e with
  | reset rom => exact resetEvent_related hrel rom h
  | step rnd => exact stepWith_related hrel h rnd
  | tick => exact tickEvent_related hrel h
  | tickBatch k => exact tickBatch_related hrel k h
  | keySample new => exact keySampleEvent_related hrel new h
  | readout => exact h

end

/-! Steps. -/

/-- A relation that every write of the block keeps and under which the environment's inputs are the same. -/
structure KeptBySteps (rel : State → State → Prop) : Prop extends KeptByBlock rel where
  agenda {s t : State} : rel s t → s.agenda = t.agenda
  env {s t : State} : rel s t → s.env = t.env
  setAgenda {s t : State} : rel s t → ∀ es, rel (s.setAgenda es) (t.setAgenda es)
  setEnv {s t : State} : rel s t → ∀ m, rel (s.setEnv m) (t.setEnv m)

theorem step_related {rel : State → State → Prop} (hrel : KeptBySteps rel) {s t : State} (h : rel s t) :
    RelatedResults rel (step s) (step t) := by
  have hagenda := hrel.agenda h
  have henv := hrel.env h
  cases hs : s.agenda with
  | cons e rest =>
    rw [step_of_cons hs, step_of_cons (hagenda ▸ hs)]
    exact issue_related hrel.toKeptByBlock e (hrel.setAgenda h rest)
  | nil =>
    cases he : s.env with
    | steps =>
      rw [step_of_steps hs he, step_of_steps (hagenda ▸ hs) (henv ▸ he)]
      exact stepEvent_related hrel.toKeptByBlock h
    | free k =>
      rw [step, step, stepUnder_of_free _ hs he, stepUnder_of_free _ (hagenda ▸ hs) (henv ▸ he)]
      exact issue_related hrel.toKeptByBlock _ (hrel.setEnv h _)

/-! Bits 15..12 of I. -/

theorem sameButHighI_iff {s t : State} :
    SameButHighI s t ↔ ∃ w : Word, w.toNat % 4096 = t.i.toNat % 4096 ∧ s = t.setI w :=
  ⟨fun ⟨hlow, h⟩ => ⟨s.i, hlow, h⟩, fun ⟨_, hlow, h⟩ => h ▸ ⟨hlow, rfl⟩⟩

theorem sameButHighI_keptByBlock : KeptByBlock SameButHighI := by
  constructor <;> (intro s t h; obtain ⟨w, hlow, rfl⟩ := sameButHighI_iff.1 h)
  case visible => rfl
  case lowI => exact hlow
  case pop => exact fun _ _ => ⟨rfl, hlow, rfl⟩
  case setI => exact fun _ => ⟨rfl, rfl⟩
  case advanceI =>
    refine fun d => ⟨?_, rfl⟩
    rw [State.setI_i, State.setI_i, State.setI_i, BitVec.toNat_add, BitVec.toNat_add]
    omega
  case boot => exact fun _ => ⟨rfl, rfl⟩
  all_goals
    intros
    exact ⟨hlow, rfl⟩

theorem sameButHighI_keptBySteps : KeptBySteps SameButHighI := by
  refine ⟨sameButHighI_keptByBlock, ?_, ?_, ?_, ?_⟩ <;>
    (intro s t h; obtain ⟨w, hlow, rfl⟩ := sameButHighI_iff.1 h)
  · rfl
  · rfl
  · exact fun _ => ⟨hlow, rfl⟩
  · exact fun _ => ⟨hlow, rfl⟩

/-- Settles O57: every access at I is masked, Fx1E masks I, and the advance of I keeps the low bits equal. -/
theorem highBitsOfIndexAreUnobservable : Obligations.HighBitsOfIndexAreUnobservable := fun _ _ h =>
  step_related sameButHighI_keptBySteps h

/-! ST. -/

theorem sameButSt_iff {s t : State} : SameButSt s t ↔ ∃ b, s = t.setSt b :=
  ⟨fun h => ⟨s.st, h⟩, fun ⟨_, h⟩ => h ▸ rfl⟩

theorem sameButSt_keptByBlock : KeptByBlock SameButSt := by
  constructor <;> (intro s t h; obtain ⟨b, rfl⟩ := sameButSt_iff.1 h)
  case pop => exact fun _ _ => ⟨rfl, rfl⟩
  all_goals
    intros
    rfl

theorem sameButSt_keptBySteps : KeptBySteps SameButSt := by
  refine ⟨sameButSt_keptByBlock, ?_, ?_, ?_, ?_⟩ <;> (intro s t h; obtain ⟨b, rfl⟩ := sameButSt_iff.1 h)
  all_goals
    intros
    rfl

/-- Settles O58: ST is written by Fx18 and counted down, and nothing reads it for another piece. -/
theorem soundTimerIsUnobservable : Obligations.SoundTimerIsUnobservable := fun _ _ h =>
  step_related sameButSt_keptBySteps h

/-! Stale stack entries. -/

theorem sameButStaleStack_iff {s t : State} :
    SameButStaleStack s t ↔
      ∃ entries : Vector Word 16, (∀ j : StackIndex, (j.val : Int) ≤ spValue t.sp → entries[j] = t.getStack j) ∧
        s = { t with stack := entries } := by
  constructor
  · rintro ⟨hlive, h⟩
    have hsp : s.sp = t.sp := by rw [h]
    exact ⟨s.stack, fun j hj => hlive j (hsp ▸ hj), h⟩
  · rintro ⟨entries, hlive, rfl⟩
    exact ⟨hlive, rfl⟩

theorem sameButStaleStack_keptByBlock : KeptByBlock SameButStaleStack := by
  constructor <;> (intro s t h; obtain ⟨entries, hlive, rfl⟩ := sameButStaleStack_iff.1 h)
  case visible => rfl
  case lowI => rfl
  case pop =>
    intro j hj
    have htop : spValue t.sp = j.val := congrArg spValue hj
    refine ⟨hlive j (Int.le_of_eq htop.symm), fun k hk => hlive k ?_, rfl⟩
    rw [State.setSp_sp, spValue_popSlot] at hk
    omega
  case push =>
    intro j w hj
    have htop : (j.val : Int) = spValue t.sp + 1 := pushSlot_eq_some hj
    refine ⟨fun k hk => ?_, rfl⟩
    rw [State.getStack_setStack, State.getStack_setStack]
    split_ifs with hkj
    · rfl
    · have hk : (k.val : Int) ≤ j.val := hk
      have hne : k.val ≠ j.val := fun e => hkj (Fin.ext e)
      exact hlive k (by omega)
  case boot => exact fun _ => ⟨fun _ _ => rfl, rfl⟩
  all_goals
    intros
    exact ⟨hlive, rfl⟩

theorem sameButStaleStack_keptBySteps : KeptBySteps SameButStaleStack := by
  refine ⟨sameButStaleStack_keptByBlock, ?_, ?_, ?_, ?_⟩ <;>
    (intro s t h; obtain ⟨entries, hlive, rfl⟩ := sameButStaleStack_iff.1 h)
  · rfl
  · rfl
  · exact fun _ => ⟨hlive, rfl⟩
  · exact fun _ => ⟨hlive, rfl⟩

/-- Settles O59: a return reads the live top entry, and a call overwrites the entry that it makes live. -/
theorem staleStackEntriesAreUnobservable : Obligations.StaleStackEntriesAreUnobservable := fun _ _ h =>
  step_related sameButStaleStack_keptBySteps h

/-! The environment's inputs. -/

/-- Equal but for the agenda and the environment, which are given on the left. -/
def SameButInputs (es : List Event) (m : Environment) (s t : State) : Prop := s = (t.setAgenda es).setEnv m

theorem sameButInputs_keptByBlock (es : List Event) (m : Environment) : KeptByBlock (SameButInputs es m) := by
  constructor <;> rintro _ t rfl
  case pop => exact fun _ _ => ⟨rfl, rfl⟩
  all_goals
    intros
    rfl

/-- An event does not look at the environment's inputs. -/
theorem issue_inputs (e : Event) (s : State) (es : List Event) (m : Environment) :
    RelatedResults (SameButInputs es m) (issue e ((s.setAgenda es).setEnv m)) (issue e s) :=
  issue_related (sameButInputs_keptByBlock es m) e rfl

theorem issue_inputs_of_next {e : Event} {s t : State} (h : issue e s = .next t) (es : List Event) (m : Environment) :
    issue e ((s.setAgenda es).setEnv m) = .next ((t.setAgenda es).setEnv m) := by
  have hrel := issue_inputs e s es m
  rw [h] at hrel
  obtain ⟨u, hu⟩ | ⟨rom, -, -, hu⟩ := issue_completes_or_refuses e ((s.setAgenda es).setEnv m)
  · rw [hu] at hrel ⊢
    exact congrArg Host.Outcome.next hrel
  · rw [hu] at hrel
    cases hrel

theorem issue_inputs_of_refused {e : Event} {s : State} {r : Refusal} (h : issue e s = .refused r) (es : List Event)
    (m : Environment) : issue e ((s.setAgenda es).setEnv m) = .refused r := by
  have hrel := issue_inputs e s es m
  rw [h] at hrel
  obtain ⟨u, hu⟩ | ⟨rom, -, -, hu⟩ := issue_completes_or_refuses e ((s.setAgenda es).setEnv m)
  · rw [hu] at hrel
    cases hrel
  · rw [hu] at hrel ⊢
    exact congrArg Host.Outcome.refused hrel

/-- An event does not write the environment's inputs. -/
theorem issue_keeps_inputs {e : Event} {s t : State} (h : issue e s = .next t) :
    t.agenda = s.agenda ∧ t.env = s.env := by
  have hself : Host.Outcome.next t = .next ((t.setAgenda s.agenda).setEnv s.env) :=
    h.symm.trans (issue_inputs_of_next h s.agenda s.env)
  injection hself with hself
  rw [hself]
  exact ⟨rfl, rfl⟩

theorem issueAll_cons_of_refused {e : Event} {s : State} {r : Refusal} (h : issue e s = .refused r) (es : List Event) :
    issueAll (e :: es) s = .refused r := by
  rw [issueAll, h]

theorem run_agenda (es : List Event) (s : State) (h : s.agenda = []) :
    Host.Core.run Sys2Proof.core es.length (s.setAgenda es) = issueAll es s := by
  induction es generalizing s with
  | nil => exact congrArg Host.Outcome.next (h ▸ rfl : s.setAgenda [] = s)
  | cons e es ih =>
    have hstep : step (s.setAgenda (e :: es)) = issue e ((s.setAgenda es).setEnv s.env) := step_of_cons rfl
    obtain ⟨t, ht⟩ | ⟨rom, -, -, hr⟩ := issue_completes_or_refuses e s
    · obtain ⟨hagenda, henv⟩ := issue_keeps_inputs ht
      have hnext := hstep.trans (issue_inputs_of_next ht es s.env)
      rw [issueAll_cons_of_next ht, List.length_cons, run_succ_of_next _ hnext, ← henv]
      exact ih t (hagenda.trans h)
    · rw [issueAll_cons_of_refused hr]
      exact run_succ_of_refused _ (hstep.trans (issue_inputs_of_refused hr es s.env))

/-- Settles O8: by induction on the agenda, whose first event each step issues. -/
theorem agendaRunIsTheEventSequence : Obligations.AgendaRunIsTheEventSequence := run_agenda

/-- A run under an interleaving from place n on does what issuing its events does. -/
theorem run_interleaving (seq : Nat → Event) (k n : Nat) (s : State) (h : s.agenda = []) :
    (∀ t, issueAll ((List.range' n k).map seq) s = .next t →
      Host.Core.run (coreUnder seq) k (s.setEnv (.free n)) = .next (t.setEnv (.free (n + k)))) ∧
    ∀ r, issueAll ((List.range' n k).map seq) s = .refused r →
      Host.Core.run (coreUnder seq) k (s.setEnv (.free n)) = .refused r := by
  induction k generalizing n s with
  | zero =>
    refine ⟨fun t ht => ?_, fun r hr => ?_⟩
    · cases ht
      rfl
    · cases hr
  | succ k ih =>
    have hstep : stepUnder seq (s.setEnv (.free n)) = issue (seq n) ((s.setAgenda s.agenda).setEnv (.free (n + 1))) :=
      stepUnder_of_free seq h rfl
    rw [List.range'_succ, List.map_cons]
    obtain ⟨u, hu⟩ | ⟨rom, -, -, hr⟩ := issue_completes_or_refuses (seq n) s
    · have hagenda := (issue_keeps_inputs hu).1
      have hnext : (coreUnder seq).step (s.setEnv (.free n)) = .next (u.setEnv (.free (n + 1))) := by
        refine (hstep.trans (issue_inputs_of_next hu _ _)).trans ?_
        rw [← hagenda]
        rfl
      rw [issueAll_cons_of_next hu, core_run_next _ k hnext, Nat.add_comm k 1, ← Nat.add_assoc]
      exact ih (n + 1) u (hagenda.trans h)
    · have hrefused : (coreUnder seq).step (s.setEnv (.free n)) = .refused (.romTooLong rom.length) :=
        hstep.trans (issue_inputs_of_refused hr _ _)
      rw [issueAll_cons_of_refused hr, core_run_refused _ k hrefused]
      exact ⟨fun t ht => (by cases ht), fun r hr => hr⟩

/-- Settles O9: the model's own machine is the one under its free interleaving, and a run under any is its events. -/
theorem everyInfiniteInterleavingIsARun : Obligations.EveryInfiniteInterleavingIsARun := by
  refine ⟨rfl, fun seq k n s hagenda henv => ?_⟩
  have hself : s.setEnv (.free n) = s := henv ▸ rfl
  have hrun := run_interleaving seq k n s hagenda
  rwa [hself] at hrun

end Sys2Proof.Machine

/-!
PROOFS. Drawing on pixels and on packed bytes, and the readout (43_display.md R89 to R92).
-/

namespace Sys2Proof.Machine

/-! The pixels that a sprite covers. -/

/-- A row byte covers column q with its bit b for the one b below 8 that lies there. -/
theorem rowCovers_iff (vx sprite : Byte) (q : Fin 64) :
    rowCovers vx sprite q (List.range 8) = true ↔
      ∃ b, b < 8 ∧ (vx.toNat + b) % 64 = q.val ∧ sprite.getLsbD (7 - b) = true := by
  have hcol : ∀ b, spriteCol vx b = q ↔ (vx.toNat + b) % 64 = q.val := fun b => Fin.ext_iff
  simp only [rowCovers, List.any_eq_true, List.mem_range, Bool.and_eq_true, decide_eq_true_eq, hcol, spriteBit,
    and_comm]

theorem spriteBytes_length (s : State) (n : Nat) : (spriteBytes s n).length = n := by simp [spriteBytes]

theorem spriteBytes_getElem (s : State) (n r : Nat) (h : r < (spriteBytes s n).length) :
    (spriteBytes s n)[r] = s.memRead (s.i.toNat + r) := by
  simp [spriteBytes]

/-- The rasteriser's cover is the spec's. -/
theorem spriteCoversFrom_iff (s : State) (vx vy : Byte) (n : Nat) (row : Fin 32) (col : Fin 64) :
    spriteCoversFrom vx vy 0 (spriteBytes s n) row col ↔ spriteCovers s vx vy n row col := by
  have hrow : ∀ r, spriteRow vy (0 + r) = row ↔ (vy.toNat + r) % 32 = row.val := fun r => by
    rw [Nat.zero_add]
    exact Fin.ext_iff
  constructor
  · rintro ⟨r, hr, hy, hcov⟩
    obtain ⟨b, hb, hx, hbit⟩ := (rowCovers_iff ..).1 hcov
    rw [spriteBytes_getElem] at hbit
    exact ⟨r, b, spriteBytes_length s n ▸ hr, hb, (hrow r).1 hy, hx, hbit⟩
  · rintro ⟨r, b, hr, hb, hy, hx, hbit⟩
    have hr' : r < (spriteBytes s n).length := by rwa [spriteBytes_length]
    refine ⟨r, hr', (hrow r).2 hy, (rowCovers_iff ..).2 ⟨b, hb, hx, ?_⟩⟩
    rwa [spriteBytes_getElem]

/-- Settles O50: the rows of a sprite are distinct, and so are the columns of a row, so each covered pixel is inverted
once. -/
theorem drawInvertsTheCoveredPixels : Obligations.DrawInvertsTheCoveredPixels := by
  intro s x y n
  have hlen : (spriteBytes s n.toNat).length ≤ 32 := by
    rw [spriteBytes_length]
    omega
  obtain ⟨hpix, hhit⟩ :=
    drawRows_spec (s.getV x) (s.getV y) (spriteBytes s n.toNat) 0 hlen { pix := s.pix, hit := false }
  simp only [spriteCoversFrom_iff, Bool.false_eq_true, false_or] at hpix hhit
  refine ⟨decode_encXYN_drw x y n, _, exec_drw s x y n, hpix, fun hlit => ?_, fun hdark => ?_,
    (unchangedBut_setPix s _).trans (unchangedBut_setV _ regVF _)⟩
  · rw [State.getV_setV_same, hhit.2 hlit]
    rfl
  · have hmiss :
        (drawRows (s.getV x) (s.getV y) 0 (spriteBytes s n.toNat) { pix := s.pix, hit := false }).hit = false := by
      rw [← Bool.not_eq_true, hhit]
      rintro ⟨row, col, hcov, hlit⟩
      exact Bool.false_ne_true ((hdark row col hcov).symm.trans hlit)
    rw [State.getV_setV_same, hmiss]
    rfl

/-- What a sprite covers depends on I and memory only. -/
theorem spriteCovers_congr {s t : State} {rs : List Reg} (h : UnchangedBut rs [.pix] s t) (vx vy : Byte) (n : Nat)
    (row : Fin 32) (col : Fin 64) : spriteCovers t vx vy n row col ↔ spriteCovers s vx vy n row col := by
  have hi : t.i = s.i := h.2 .i (by simp)
  have hmem : ∀ a, t.memRead a = s.memRead a := h.2 .mem (by simp)
  simp only [spriteCovers, hi, hmem]

/-- Settles O51: both draws cover the same pixels, and the first leaves exactly the dark ones of them lit. -/
theorem drawingTwiceRestoresTheDisplay : Obligations.DrawingTwiceRestoresTheDisplay := by
  intro s x y n hx hy
  obtain ⟨-, t, ht, hpix, -, -, hframe⟩ := drawInvertsTheCoveredPixels s x y n
  obtain ⟨-, u, hu, hpix', hone, hzero, -⟩ := drawInvertsTheCoveredPixels t x y n
  have htx : t.getV x = s.getV x := hframe.1 x (by simpa using hx)
  have hty : t.getV y = s.getV y := hframe.1 y (by simpa using hy)
  simp only [htx, hty, spriteCovers_congr hframe] at hpix' hone hzero
  refine ⟨t, u, ht, hu, fun row col => ?_, ?_, ?_⟩
  · by_cases hcov : spriteCovers s (s.getV x) (s.getV y) n.toNat row col
    · rw [(hpix' row col).1 hcov, (hpix row col).1 hcov, Bool.not_not]
    · rw [(hpix' row col).2 hcov, (hpix row col).2 hcov]
  · intro hflag
    by_contra hnone
    have hdark : u.getV regVF = 0 := hzero fun row col hcov => by
      rw [(hpix row col).1 hcov, Bool.not_eq_false']
      by_contra hs
      exact hnone ⟨row, col, hcov, Bool.not_eq_true _ ▸ hs⟩
    exact absurd (hflag.symm.trans hdark) (by decide)
  · rintro ⟨row, col, hcov, hs⟩
    exact hone ⟨row, col, hcov, by rw [(hpix row col).1 hcov, hs]; rfl⟩

/-! Packed bytes. -/

/-- Reading the pixels as binary digits, the leftmost is the highest. -/
theorem testBit_foldl_pixels (px : Nat → Bool) (n : Nat) {j : Nat} (h : j < n) :
    ((List.range n).foldl (fun acc j => 2 * acc + (px j).toNat) 0).testBit (n - 1 - j) = px j := by
  induction n with
  | zero => omega
  | succ n ih =>
    rw [List.range_succ, List.foldl_append, List.foldl_cons, List.foldl_nil]
    obtain rfl | hlt := Nat.eq_or_lt_of_le (Nat.le_of_lt_succ h)
    · cases px j <;> simp [Nat.testBit_zero]
    · have hhalf : ∀ a, (2 * a + (px n).toNat) / 2 = a := fun a => by
        have := Bool.toNat_le (px n)
        omega
      have hpos : n + 1 - 1 - j = (n - 1 - j) + 1 := by omega
      rw [hpos, Nat.testBit_succ, hhalf]
      exact ih hlt

theorem getLsbD_byteOfPixels (px : Nat → Bool) {j : Nat} (h : j < 8) : (byteOfPixels px).getLsbD (7 - j) = px j := by
  have hlt : 7 - j < 8 := by omega
  rw [byteOfPixels, BitVec.getLsbD_ofNat, decide_eq_true hlt, Bool.true_and]
  exact testBit_foldl_pixels px 8 h

/-- Bytes with the same bits from the left are equal. -/
theorem byte_ext {a b : Byte} (h : ∀ j, j < 8 → a.getLsbD (7 - j) = b.getLsbD (7 - j)) : a = b := by
  refine BitVec.eq_of_getLsbD_eq fun i hi => ?_
  have hj := h (7 - i) (by omega)
  rwa [Nat.sub_sub_self (by omega)] at hj

theorem byte_ne_zero_iff (b : Byte) : b ≠ 0 ↔ ∃ j, j < 8 ∧ b.getLsbD (7 - j) = true := by
  constructor
  · intro hb
    by_contra hnone
    refine hb (byte_ext fun j hj => ?_)
    have hzero : (0 : Byte).getLsbD (7 - j) = false := BitVec.getLsbD_zero
    rw [hzero, ← Bool.not_eq_true]
    exact fun hbit => hnone ⟨j, hj, hbit⟩
  · rintro ⟨j, -, hbit⟩ rfl
    simp at hbit

theorem Display.getElem_pack (p : Display) {k : Nat} (hk : k < 256) : p.pack[k] = p.packedByte ⟨k, hk⟩ :=
  Vector.getElem_ofFn hk

/-- Bit 7 - j of byte m of a row is the pixel in column 8 m + j (43_display.md R87). -/
theorem Display.getLsbD_pack (p : Display) {k : Nat} (hk : k < 256) {j : Nat} (hj : j < 8) :
    p.pack[k].getLsbD (7 - j) = p.pixel (Fin.ofNat 32 (k / 8)) (Fin.ofNat 64 (k % 8 * 8 + j)) := by
  rw [p.getElem_pack hk]
  exact getLsbD_byteOfPixels _ hj

/-- The bits of a sprite byte that lie on byte m of a display row, drawn at column vx (R90). -/
def rowMask (vx sprite : Byte) (m : Nat) : Byte :=
  if m = vx.toNat % 64 / 8 then sprite >>> (vx.toNat % 8)
  else if m = (vx.toNat % 64 / 8 + 1) % 8 then sprite <<< (8 - vx.toNat % 8)
  else 0

/-- The mask has the bits of the columns that the sprite row covers. -/
theorem getLsbD_rowMask (vx sprite : Byte) {m j : Nat} (hm : m < 8) (hj : j < 8) :
    (rowMask vx sprite m).getLsbD (7 - j) = rowCovers vx sprite (Fin.ofNat 64 (m * 8 + j)) (List.range 8) := by
  have hq : (Fin.ofNat 64 (m * 8 + j)).val = m * 8 + j := Nat.mod_eq_of_lt (by omega)
  rw [Bool.eq_iff_iff, rowCovers_iff, hq]
  unfold rowMask
  split_ifs with hfirst hsecond
  · rw [BitVec.getLsbD_ushiftRight]
    constructor
    · intro hbit
      have := BitVec.lt_of_getLsbD hbit
      exact ⟨j - vx.toNat % 8, by omega, by omega, by rw [← hbit]; congr 1; omega⟩
    · rintro ⟨b, hb, hcol, hbit⟩
      rw [← hbit]
      congr 1
      omega
  · rw [BitVec.getLsbD_shiftLeft]
    simp only [Bool.and_eq_true, decide_eq_true_eq, Bool.not_eq_true', decide_eq_false_iff_not]
    constructor
    · rintro ⟨⟨-, hshift⟩, hbit⟩
      exact ⟨8 + j - vx.toNat % 8, by omega, by omega, by rw [← hbit]; congr 1; omega⟩
    · rintro ⟨b, hb, hcol, hbit⟩
      refine ⟨⟨by omega, by omega⟩, ?_⟩
      rw [← hbit]
      congr 1
      omega
  · refine iff_of_false (by simp) ?_
    rintro ⟨b, hb, hcol, -⟩
    omega

/-- A byte that the sprite row does not reach has no mask. -/
theorem rowMask_reaches {vx sprite : Byte} {m j : Nat} (h : (rowMask vx sprite m).getLsbD j = true) :
    m = vx.toNat % 64 / 8 ∨ m = (vx.toNat % 64 / 8 + 1) % 8 := by
  by_contra hm
  rw [not_or] at hm
  simp [rowMask, hm] at h

theorem getElem_set_xor (d : PackedDisplay) (i₁ i₂ : Fin 256) (c₁ c₂ : Byte) {k : Nat} (hk : k < 256) :
    ((d.set i₁ (d[i₁] ^^^ c₁)).set i₂ (d[i₂] ^^^ c₂))[k] =
      d[k] ^^^ if k = i₂.val then c₂ else if k = i₁.val then c₁ else 0 := by
  rw [Vector.getElem_set, Vector.getElem_set]
  by_cases h₂ : k = i₂.val
  · subst h₂
    rw [if_pos rfl, if_pos rfl]
    rfl
  · rw [if_neg (Ne.symm h₂), if_neg h₂]
    by_cases h₁ : k = i₁.val
    · subst h₁
      rw [if_pos rfl, if_pos rfl]
      rfl
    · rw [if_neg (Ne.symm h₁), if_neg h₁]
      exact (BitVec.xor_zero).symm

/-- Byte k after the byte-level row: the mask of its place in the row is applied if it lies in the row. -/
theorem packedDrawRow_disp (row : Fin 32) (vx sprite : Byte) (c : PackedCanvas) {k : Nat} (hk : k < 256) :
    (packedDrawRow row vx sprite c).disp[k] =
      c.disp[k] ^^^ if k / 8 = row.val then rowMask vx sprite (k % 8) else 0 := by
  have hi₁ : (Fin.ofNat 256 (row.val * 8 + vx.toNat % 64 / 8)).val = row.val * 8 + vx.toNat % 64 / 8 :=
    Nat.mod_eq_of_lt (by omega)
  have hi₂ : (Fin.ofNat 256 (row.val * 8 + (vx.toNat % 64 / 8 + 1) % 8)).val =
      row.val * 8 + (vx.toNat % 64 / 8 + 1) % 8 := Nat.mod_eq_of_lt (by omega)
  rw [packedDrawRow, getElem_set_xor _ _ _ _ _ hk, hi₁, hi₂]
  congr 1
  by_cases hrow : k / 8 = row.val
  · have hplace : ∀ m, m < 8 → (k = row.val * 8 + m ↔ k % 8 = m) := fun m hm => by omega
    rw [if_pos hrow, rowMask]
    simp only [hplace _ (Nat.mod_lt _ (by decide : 8 > 0)), hplace (vx.toNat % 64 / 8) (by omega)]
    split_ifs with hsecond hfirst
    · omega
    all_goals rfl
  · rw [if_neg hrow, if_neg (by omega), if_neg (by omega)]

theorem rowHits_iff (vx sprite : Byte) (row : Fin 32) (p : Display) :
    rowHits vx sprite row p (List.range 8) = true ↔
      ∃ q, rowCovers vx sprite q (List.range 8) = true ∧ p.pixel row q = true := by
  simp only [rowHits, rowCovers, List.any_eq_true, Bool.and_eq_true, decide_eq_true_eq]
  constructor
  · rintro ⟨b, hb, hbit, hlit⟩
    exact ⟨spriteCol vx b, ⟨b, hb, hbit, rfl⟩, hlit⟩
  · rintro ⟨_, ⟨b, hb, hbit, rfl⟩, hlit⟩
    exact ⟨b, hb, hbit, hlit⟩

/-- The old byte and its mask meet in a lit pixel that the sprite row covers. -/
theorem pack_and_rowMask_ne_zero (row : Fin 32) (vx sprite : Byte) (p : Display) {m : Nat} (hm : m < 8) :
    p.pack[Fin.ofNat 256 (row.val * 8 + m)] &&& rowMask vx sprite m ≠ 0 ↔
      ∃ j, j < 8 ∧ p.pixel row (Fin.ofNat 64 (m * 8 + j)) = true ∧
        rowCovers vx sprite (Fin.ofNat 64 (m * 8 + j)) (List.range 8) = true := by
  have hk : (Fin.ofNat 256 (row.val * 8 + m)).val = row.val * 8 + m := Nat.mod_eq_of_lt (by omega)
  have hrow : Fin.ofNat 32 ((row.val * 8 + m) / 8) = row := Fin.ext (by simp only [Fin.ofNat]; omega)
  have hplace : (row.val * 8 + m) % 8 = m := by omega
  rw [byte_ne_zero_iff]
  refine exists_congr fun j => and_congr_right fun hj => ?_
  rw [BitVec.getLsbD_and, Fin.getElem_fin, p.getLsbD_pack _ hj, getLsbD_rowMask vx sprite hm hj, hk, hrow, hplace,
    Bool.and_eq_true]

/-- The two bytes that the byte-level row tests see every lit pixel that the sprite row covers. -/
theorem packed_hit_iff (row : Fin 32) (vx sprite : Byte) (p : Display) :
    rowHits vx sprite row p (List.range 8) = true ↔
      ∃ m, (m = vx.toNat % 64 / 8 ∨ m = (vx.toNat % 64 / 8 + 1) % 8) ∧
        p.pack[Fin.ofNat 256 (row.val * 8 + m)] &&& rowMask vx sprite m ≠ 0 := by
  rw [rowHits_iff]
  constructor
  · rintro ⟨q, hcov, hlit⟩
    have hq : Fin.ofNat 64 (q.val / 8 * 8 + q.val % 8) = q := Fin.ext (by simp only [Fin.ofNat]; omega)
    have hm : q.val / 8 < 8 := by omega
    have hj : q.val % 8 < 8 := Nat.mod_lt _ (by decide)
    have hbit : (rowMask vx sprite (q.val / 8)).getLsbD (7 - q.val % 8) = true := by
      rw [getLsbD_rowMask vx sprite hm hj, hq, hcov]
    refine ⟨q.val / 8, rowMask_reaches hbit, ?_⟩
    exact (pack_and_rowMask_ne_zero row vx sprite p hm).2 ⟨q.val % 8, hj, by rw [hq, hlit], by rw [hq, hcov]⟩
  · rintro ⟨m, hm, hmeet⟩
    obtain ⟨j, -, hlit, hcov⟩ := (pack_and_rowMask_ne_zero row vx sprite p (by omega)).1 hmeet
    exact ⟨_, hcov, hlit⟩

theorem packedDrawRow_hit (row : Fin 32) (vx sprite : Byte) (c : Canvas) :
    (packedDrawRow row vx sprite { disp := c.pix.pack, hit := c.hit }).hit =
      (c.hit || rowHits vx sprite row c.pix (List.range 8)) := by
  have hfirst : rowMask vx sprite (vx.toNat % 64 / 8) = sprite >>> (vx.toNat % 8) := if_pos rfl
  have hsecond : rowMask vx sprite ((vx.toNat % 64 / 8 + 1) % 8) = sprite <<< (8 - vx.toNat % 8) :=
    (if_neg (by omega)).trans (if_pos rfl)
  simp only [packedDrawRow, ← hfirst, ← hsecond, Bool.or_assoc]
  congr 1
  rw [Bool.eq_iff_iff, packed_hit_iff, Bool.or_eq_true, decide_eq_true_eq, decide_eq_true_eq]
  simp only [or_and_right, exists_or, exists_eq_left]

theorem packedDrawRow_pack (row : Fin 32) (vx sprite : Byte) (c : Canvas) :
    (packedDrawRow row vx sprite { disp := c.pix.pack, hit := c.hit }).disp = (drawRow row vx sprite c).pix.pack := by
  refine Vector.ext fun k hk => byte_ext fun j hj => ?_
  have hrow : Fin.ofNat 32 (k / 8) = row ↔ k / 8 = row.val := by
    rw [Fin.ext_iff]
    exact Eq.congr_left (Nat.mod_eq_of_lt (by omega))
  obtain ⟨hpix, -⟩ := drawRow_spec row vx sprite c
  rw [packedDrawRow_disp row vx sprite _ hk, BitVec.getLsbD_xor, Display.getLsbD_pack _ hk hj,
    Display.getLsbD_pack _ hk hj, hpix]
  congr 1
  by_cases h : k / 8 = row.val
  · rw [if_pos h, getLsbD_rowMask vx sprite (Nat.mod_lt k (by decide)) hj, decide_eq_true (hrow.2 h), Bool.true_and]
  · rw [if_neg h, decide_eq_false (mt hrow.1 h), Bool.false_and]
    exact BitVec.getLsbD_zero

/-- Settles O52: bit by bit, both forms apply the row's mask, and both test it against the old pixels. -/
theorem packedRowAgreesWithPixels : Obligations.PackedRowAgreesWithPixels := by
  intro row vx sprite c
  have hdisp := packedDrawRow_pack row vx sprite c
  have hhit := (packedDrawRow_hit row vx sprite c).trans (drawRow_spec row vx sprite c).2.symm
  exact PackedCanvas.mk.injEq .. ▸ ⟨hdisp, hhit⟩

/-! The readout. -/

theorem Display.bits_eq (p : Display) : p.bits = p.flatten.toList := by
  simp only [Display.bits, List.flatMap_def, Vector.flatten, Vector.toList, Array.toList_flatten, Array.toList_map,
    List.map_map]
  rfl

/-- Settles O53: the bits are the flattened rows. -/
theorem readoutListsThePixelsRowMajor : Obligations.ReadoutListsThePixelsRowMajor := by
  refine fun s => ⟨rfl, s.pix.bits, rfl, ?_, fun row col => ?_⟩
  · rw [Display.bits_eq, Vector.length_toList]
  · have hlt : row.val * 64 + col.val < 32 * 64 := by omega
    have hrow : (row.val * 64 + col.val) / 64 = row.val := by omega
    have hcol : (row.val * 64 + col.val) % 64 = col.val := by omega
    rw [Display.bits_eq, Vector.getElem?_toList, Vector.getElem?_flatten, dif_pos hlt]
    simp only [hrow, hcol]
    rfl

end Sys2Proof.Machine

/-!
PROOFS. The suggested pins: one strobe is honoured in a clock (00_scope.md R7, 60_exceptions.md R108; log 13).
-/

namespace Sys2Proof.Machine

theorem romImage_length (p : PinsIn) : p.romImage.length = p.romLen.toNat := by simp [PinsIn.romImage]

/-- Inside the data, byte j of the image is byte j of the data. -/
theorem romImage_getElem? (p : PinsIn) {j : Nat} (h : j < 3584) (hj : j < p.romImage.length) :
    p.romImage[j]? = some p.romData[j] := by
  rw [romImage_length] at hj
  simp [PinsIn.romImage, hj, h]

theorem keyLevels_getElem (keyIn : BitVec 16) (k : KeyCode) : (keyLevels keyIn)[k] = keyIn.getLsbD k.val :=
  Vector.getElem_ofFn k.isLt

theorem clockEdge_of_some {p : PinsIn} {e : Event} (h : honoured p = some e) (s : State) :
    clockEdge p s = issue e s := by
  rw [clockEdge, h]

theorem clockEdge_of_none {p : PinsIn} (h : honoured p = none) (s : State) : clockEdge p s = .next s := by
  rw [clockEdge, h]

/-- Settles O60: the five settings of the strobes select the arms of one chain of tests. -/
theorem oneStrobeIsHonouredByPriority : Obligations.OneStrobeIsHonouredByPriority := by
  refine fun p s => ⟨fun hrst => ?_, fun hrst hstep => ?_, fun hrst hstep htick => ?_, fun hrst hstep htick hkey => ?_,
    fun hrst hstep htick hkey => ?_⟩
  · exact ⟨p.romImage, romImage_length p, fun j h hj => romImage_getElem? p h hj,
      clockEdge_of_some (by simp [honoured, hrst]) s⟩
  · exact clockEdge_of_some (by simp [honoured, hrst, hstep]) s
  · exact clockEdge_of_some (by simp [honoured, hrst, hstep, htick]) s
  · exact ⟨keyLevels p.keyIn, keyLevels_getElem p.keyIn,
      clockEdge_of_some (by simp [honoured, hrst, hstep, htick, hkey]) s⟩
  · exact clockEdge_of_none (by simp [honoured, hrst, hstep, htick, hkey]) s

end Sys2Proof.Machine
